-- ==== Sys2Proof/Word.lean ====
section
/-! DEFINITION. The word types of the block: the byte of a field and of the frame, the button
register, the command word and its operand (spec/00_scope.md R4, R5, R7). -/

namespace Sys2Proof

/-- `u8`: a stick, trigger or shadow-axis field, and one byte of the frame (AXIS_W = 8, R4). -/
abbrev Byte := BitVec 8

/-- `u14`: the fourteen button flags (NBUTTONS = BUTTONS_W = 14, R4, R5; log 10). -/
abbrev ButtonSet := BitVec 14

/-- One whole word of the command port (CMD_W = 40, R5, R60, R61; log 19). -/
abbrev CommandWord := BitVec 40

/-- The operand field of a command word and the operand of `setAllAxesPacked`
(OPERAND_W = PACKED_W = 32, R4, R5, R61). -/
abbrev Operand := BitVec 32

end Sys2Proof
end

