-- ==== Sys2Proof/Syntax.lean ====
section
/-! DEFINITION. The abstract commands: the ten operations with typed operands, one constructor per row of
spec/opcode_table.json (spec/00_scope.md R9 level 1, spec/30_encoding.md R63, R74), and the outcome of
decoding a command word (R70, R72). -/

namespace Sys2Proof

/-- `which` of `setAxis` (R66). -/
inductive StickAxis where
  | leftX
  | leftY
  | rightX
  | rightY
  deriving DecidableEq, Repr

/-- `which` of `setTrigger` (R66). -/
inductive TriggerSide where
  | left
  | right
  deriving DecidableEq, Repr

/-- `which` of `setDpadAxis` (R66). -/
inductive DpadAxis where
  | x
  | y
  deriving DecidableEq, Repr

/-- The ten commands.  A button index is 0..13 and a button mask has fourteen bits by their types: the
words outside are reserved encodings, which decoding refuses (R70; log 11).  A `value` or `direction` is
a mathematical integer (R64); which integers a command word can carry is `Instr.wellFormed`. -/
inductive Instr where
  | attach
  | detach
  | setButton (index : Fin 14) (pressed : Bool)
  | setAllButtons (mask : ButtonSet)
  | releaseAllButtons
  | setAxis (which : StickAxis) (value : Int)
  | setTrigger (which : TriggerSide) (value : Int)
  | setDpadAxis (which : DpadAxis) (value : Int)
  | setDpadCompass (direction : Int)
  | setAllAxesPacked (word : Operand)
  deriving DecidableEq, Repr

/-- Why a command word is a reserved encoding: the cases (a) to (i) of R70.  A word that falls under
several has the first that decoding meets (log 29). -/
inductive Reserved where
  /-- (a) opcode 0xA..0xF. -/
  | opcode
  /-- (b) a selector that must be zero is not. -/
  | selNotZero
  /-- (c) an operand that must be zero is not. -/
  | operandNotZero
  /-- (d) a button index of 14 or 15. -/
  | buttonIndex
  /-- (e) bits 31:1 of the operand of `setButton` are not zero. -/
  | pressedBits
  /-- (f) bits 31:14 of the operand of `setAllButtons` are not zero. -/
  | maskBits
  /-- (g) the selector of `setAxis` is 4 or more. -/
  | stickSel
  /-- (h) the selector of `setTrigger` is 2 or more. -/
  | triggerSel
  /-- (i) the selector of `setDpadAxis` is 2 or more. -/
  | dpadAxisSel
  deriving DecidableEq, Repr

/-- What `Decode` answers: an abstract command, or `reserved` with the case of R70. -/
inductive Decoded where
  | command (i : Instr)
  | reserved (why : Reserved)
  deriving DecidableEq, Repr

/-- The command a decoding gave, if it gave one. -/
def Decoded.instr? : Decoded → Option Instr
  | .command i => some i
  | .reserved _ => none

end Sys2Proof
end

