-- ==== Sys2Proof/WellFormed.lean ====
section
/-! DEFINITION. Which abstract commands a command word can carry (spec/30_encoding.md R63, R64): the signed
operand is `sext_32` of 32 bits, so it lies in -2^31 .. 2^31-1.  The other operands are in range by type. -/

namespace Sys2Proof

/-- The integers that a 32-bit signed operand can carry (R64). -/
def fitsOperand (v : Int) : Bool :=
  decide (-2147483648 ≤ v) && decide (v ≤ 2147483647)

/-- `i` has a command word. -/
def Instr.wellFormed : Instr → Bool
  | .attach => true
  | .detach => true
  | .setButton _ _ => true
  | .setAllButtons _ => true
  | .releaseAllButtons => true
  | .setAxis _ value => fitsOperand value
  | .setTrigger _ value => fitsOperand value
  | .setDpadAxis _ value => fitsOperand value
  | .setDpadCompass direction => fitsOperand direction
  | .setAllAxesPacked _ => true

end Sys2Proof
end

