-- ==== Sys2Proof/Decode.lean ====
section
/-! DEFINITION. `Decode`, total on 40-bit command words (spec/30_encoding.md R61 to R72), the encoder
written from the same tables, and the opcode table of R62 as rows of match and mask.  The command word is
the spec's own invention (D2, D3, D4, D5, D8; log 19). -/

namespace Sys2Proof

/-! ## The fields of a command word (R61) -/

/-- Bits 39:36. -/
def opcodeOf (w : CommandWord) : BitVec 4 := w.extractLsb' 36 4

/-- Bits 35:32. -/
def selOf (w : CommandWord) : BitVec 4 := w.extractLsb' 32 4

/-- Bits 31:0. -/
def operandOf (w : CommandWord) : Operand := w.extractLsb' 0 32

/-- A command word from its three fields, `a ++ b` with `a` in the more significant position (R7, R61). -/
def packWord (opcode sel : BitVec 4) (operand : Operand) : CommandWord := opcode ++ sel ++ operand

/-! ## Selectors and operands (R63 to R69) -/

/-- `sext_32`: the operand read as a signed integer (R7, R64). -/
def sext32 (operand : Operand) : Int := operand.toInt

/-- The two's complement pattern of an integer, the inverse of `sext32` where it fits. -/
def operandOfInt (v : Int) : Operand := BitVec.ofInt 32 v

/-- `which` of `setAxis`: 0..3, the rest reserved (R66). -/
def stickAxisOf (sel : BitVec 4) : Option StickAxis :=
  match sel.toNat with
  | 0 => some .leftX
  | 1 => some .leftY
  | 2 => some .rightX
  | 3 => some .rightY
  | _ => none

/-- `which` of `setTrigger`: 0, 1, the rest reserved (R66). -/
def triggerSideOf (sel : BitVec 4) : Option TriggerSide :=
  match sel.toNat with
  | 0 => some .left
  | 1 => some .right
  | _ => none

/-- `which` of `setDpadAxis`: 0, 1, the rest reserved (R66). -/
def dpadAxisOf (sel : BitVec 4) : Option DpadAxis :=
  match sel.toNat with
  | 0 => some .x
  | 1 => some .y
  | _ => none

/-- The selector number of a stick axis (R66). -/
def stickAxisSel : StickAxis → BitVec 4
  | .leftX => 0
  | .leftY => 1
  | .rightX => 2
  | .rightY => 3

/-- The selector number of a trigger (R66). -/
def triggerSideSel : TriggerSide → BitVec 4
  | .left => 0
  | .right => 1

/-- The selector number of a shadow axis (R66). -/
def dpadAxisSel : DpadAxis → BitVec 4
  | .x => 0
  | .y => 1

/-! ## Decode by operand form (R63, R72) -/

/-- Form NONE: selector and operand must be zero. -/
def decodeNone (i : Instr) (sel : BitVec 4) (operand : Operand) : Decoded :=
  if sel = 0 then (if operand = 0 then .command i else .reserved .operandNotZero)
  else .reserved .selNotZero

/-- Form BTN: the index is the selector, `pressed` is bit 0, bits 31:1 must be zero (R65). -/
def decodeButton (sel : BitVec 4) (operand : Operand) : Decoded :=
  if h : sel.toNat < 14 then
    (if operand.extractLsb' 1 31 = 0 then .command (.setButton ⟨sel.toNat, h⟩ (operand.getLsbD 0))
     else .reserved .pressedBits)
  else .reserved .buttonIndex

/-- Form MASK14: bits 31:14 must be zero (R67). -/
def decodeMask (sel : BitVec 4) (operand : Operand) : Decoded :=
  if sel = 0 then
    (if operand.extractLsb' 14 18 = 0 then .command (.setAllButtons (operand.extractLsb' 0 14))
     else .reserved .maskBits)
  else .reserved .selNotZero

/-- Form SELVAL of `setAxis`. -/
def decodeSetAxis (sel : BitVec 4) (operand : Operand) : Decoded :=
  match stickAxisOf sel with
  | some which => .command (.setAxis which (sext32 operand))
  | none => .reserved .stickSel

/-- Form SELVAL of `setTrigger`. -/
def decodeSetTrigger (sel : BitVec 4) (operand : Operand) : Decoded :=
  match triggerSideOf sel with
  | some which => .command (.setTrigger which (sext32 operand))
  | none => .reserved .triggerSel

/-- Form SELVAL of `setDpadAxis`. -/
def decodeSetDpadAxis (sel : BitVec 4) (operand : Operand) : Decoded :=
  match dpadAxisOf sel with
  | some which => .command (.setDpadAxis which (sext32 operand))
  | none => .reserved .dpadAxisSel

/-- Form VAL: the operand is a signed integer (R69). -/
def decodeCompass (sel : BitVec 4) (operand : Operand) : Decoded :=
  if sel = 0 then .command (.setDpadCompass (sext32 operand)) else .reserved .selNotZero

/-- Form WORD: 32 raw bits (R68). -/
def decodePacked (sel : BitVec 4) (operand : Operand) : Decoded :=
  if sel = 0 then .command (.setAllAxesPacked operand) else .reserved .selNotZero

/-- `Decode` (R72): total, each reserved word rejected by its case of R70. -/
def decode (w : CommandWord) : Decoded :=
  match (opcodeOf w).toNat with
  | 0 => decodeNone .attach (selOf w) (operandOf w)
  | 1 => decodeNone .detach (selOf w) (operandOf w)
  | 2 => decodeButton (selOf w) (operandOf w)
  | 3 => decodeMask (selOf w) (operandOf w)
  | 4 => decodeNone .releaseAllButtons (selOf w) (operandOf w)
  | 5 => decodeSetAxis (selOf w) (operandOf w)
  | 6 => decodeSetTrigger (selOf w) (operandOf w)
  | 7 => decodeSetDpadAxis (selOf w) (operandOf w)
  | 8 => decodeCompass (selOf w) (operandOf w)
  | 9 => decodePacked (selOf w) (operandOf w)
  | _ => .reserved .opcode

/-! ## The encoder (R62, R63) -/

/-- The opcode number of a command (R62). -/
def Instr.opcode : Instr → BitVec 4
  | .attach => 0x0
  | .detach => 0x1
  | .setButton _ _ => 0x2
  | .setAllButtons _ => 0x3
  | .releaseAllButtons => 0x4
  | .setAxis _ _ => 0x5
  | .setTrigger _ _ => 0x6
  | .setDpadAxis _ _ => 0x7
  | .setDpadCompass _ => 0x8
  | .setAllAxesPacked _ => 0x9

/-- The selector field of a command (R63, R66). -/
def Instr.sel : Instr → BitVec 4
  | .attach => 0
  | .detach => 0
  | .setButton index _ => BitVec.ofNat 4 index.val
  | .setAllButtons _ => 0
  | .releaseAllButtons => 0
  | .setAxis which _ => stickAxisSel which
  | .setTrigger which _ => triggerSideSel which
  | .setDpadAxis which _ => dpadAxisSel which
  | .setDpadCompass _ => 0
  | .setAllAxesPacked _ => 0

/-- The operand field of a command (R63 to R69). -/
def Instr.operand : Instr → Operand
  | .attach => 0
  | .detach => 0
  | .setButton _ pressed => if pressed then 1 else 0
  | .setAllButtons mask => mask.setWidth 32
  | .releaseAllButtons => 0
  | .setAxis _ value => operandOfInt value
  | .setTrigger _ value => operandOfInt value
  | .setDpadAxis _ value => operandOfInt value
  | .setDpadCompass direction => operandOfInt direction
  | .setAllAxesPacked word => word

/-- The command word of a well-formed command. -/
def encode (i : Instr) : CommandWord := packWord i.opcode i.sel i.operand

/-! ## The opcode table (R62) -/

/-- One row of the opcode table: a word has the row's shape when `w &&& mask = value`. -/
structure OpcodeRow where
  mnemonic : String
  value : CommandWord
  mask : CommandWord
  deriving DecidableEq, Repr

/-- The ten rows of R62 and spec/opcode_table.json. -/
def opcodeTable : List OpcodeRow :=
  [⟨"attach", 0x0000000000, 0xFFFFFFFFFF⟩,
   ⟨"detach", 0x1000000000, 0xFFFFFFFFFF⟩,
   ⟨"setButton", 0x2000000000, 0xF0FFFFFFFE⟩,
   ⟨"setAllButtons", 0x3000000000, 0xFFFFFFC000⟩,
   ⟨"releaseAllButtons", 0x4000000000, 0xFFFFFFFFFF⟩,
   ⟨"setAxis", 0x5000000000, 0xFC00000000⟩,
   ⟨"setTrigger", 0x6000000000, 0xFE00000000⟩,
   ⟨"setDpadAxis", 0x7000000000, 0xFE00000000⟩,
   ⟨"setDpadCompass", 0x8000000000, 0xFF00000000⟩,
   ⟨"setAllAxesPacked", 0x9000000000, 0xFF00000000⟩]

/-- The word has the row's shape. -/
def OpcodeRow.fits (row : OpcodeRow) (w : CommandWord) : Bool := w &&& row.mask == row.value

/-- The row's further condition (R62): `sel` <= 13 for `setButton`, none for the others. -/
def OpcodeRow.further (row : OpcodeRow) (w : CommandWord) : Bool :=
  row.mnemonic != "setButton" || decide ((selOf w).toNat ≤ 13)

/-- The mnemonic of a command, as the opcode table spells it. -/
def Instr.mnemonic : Instr → String
  | .attach => "attach"
  | .detach => "detach"
  | .setButton _ _ => "setButton"
  | .setAllButtons _ => "setAllButtons"
  | .releaseAllButtons => "releaseAllButtons"
  | .setAxis _ _ => "setAxis"
  | .setTrigger _ _ => "setTrigger"
  | .setDpadAxis _ _ => "setDpadAxis"
  | .setDpadCompass _ => "setDpadCompass"
  | .setAllAxesPacked _ => "setAllAxesPacked"

/-! ## The host's numbering -/

/-- The command word whose low `nbits` bits are those of `w` and whose other bits are zero.  The port
carries one whole word, so the table's numbering is the word's own (R60, R61). -/
def tableWord (nbits w : Nat) : CommandWord := BitVec.ofNat 40 (w % 2 ^ nbits)

/-- The instruction that decoding reads from the table's bits. -/
def decodeTableWord (nbits w : Nat) : Option Instr := (decode (tableWord nbits w)).instr?

end Sys2Proof
end

