-- ==== Sys2Proof/Config.lean ====
section
/-! DEFINITION. The constants the spec fixes (spec/00_scope.md R4), the values it decides where the
source is open (R5), and the two parameters it leaves open, which no rule uses (R5; log 25). -/

namespace Sys2Proof.Config

/-- STX, frame byte 0 (R4, R102). -/
@[simp] def stx : Byte := 2

/-- LEN_IND, frame byte 1, the payload length indicator (R4, R102). -/
@[simp] def lenInd : Byte := 11

/-- REPORT_TYPE, frame byte 2 (R4, R102). -/
@[simp] def reportType : Byte := 3

/-- REPORT_ID, frame byte 3 (R4, R102). -/
@[simp] def reportId : Byte := 1

/-- ETX, frame byte 13 (R4, R102). -/
@[simp] def etx : Byte := 3

/-- AXIS_CENTER, the neutral value of a stick axis and of a shadow axis (R4). -/
@[simp] def axisCenter : Byte := 128

/-- TRIG_REST, the rest value of a trigger (R4). -/
@[simp] def trigRest : Byte := 0

/-- BUTTON_MASK, all fourteen flags set (R4). -/
@[simp] def buttonMask : ButtonSet := 0x3FFF

/-- The two extremes of an analog position (R21: "0 = one extreme, 255 = the other"). -/
@[simp] def axisLow : Byte := 0

/-- See `axisLow`. -/
@[simp] def axisHigh : Byte := 255

/-- AXIS_OOR_VALUE: what `setAxis` stores for a value outside 0..255 (R5, R120, D10; log 14). -/
@[simp] def axisOorValue : Byte := 128

/-- TRIG_OOR_VALUE: what `setTrigger` stores for a value outside 0..255 (R5, R121, D11; log 14). -/
@[simp] def trigOorValue : Byte := 0

/-- What `setDpadAxis` stores for a value outside 0..255: the centre, by the source itself (R125). -/
@[simp] def dpadAxisOorValue : Byte := 128

/-- An order of the eight bits of a byte on the wire: any arrangement of the bit numbers 0..7, the n-th bit sent being
bit `order n`.  DESIGN CHOICE: that each bit is sent exactly once, and in the same order for every byte, is the model's
(log 25); the spec leaves the order wholly unknown (R5, D25). -/
abbrev WireBitOrder := Equiv.Perm (Fin 8)

/-- BAUD: the serial rate, left open by the spec (R5, D21; log 25).  No rule uses it. -/
opaque baud : Nat

/-- WIRE_BIT_ORDER: left open by the spec (R5, D25; log 25).  No rule uses it. -/
opaque wireBitOrder : WireBitOrder

end Sys2Proof.Config
end

