-- ==== Sys2Proof/Machine/State.lean ====
section
/-! DEFINITION. The state: the ten fields of ControllerState and `attached` (spec/10_state.md R20 to R26), the
control state of the block (R35), and, as plain data, the agents outside the block and what they have
observed (spec/00_scope.md R10, R11; logs 1, 23).  Reset (R31, R32, spec/70_reset_and_hazards.md R150). -/

namespace Sys2Proof.Machine

/-! ## The block's own state -/

/-- The nine directional-pad states, held in 4 bits; their codes 0..8 are `dpadBits` (R24, R95).  Nine values by
type, so that 9..15 cannot be written down (R37; log 10). -/
inductive DpadCode where
  | n
  | ne
  | e
  | se
  | s
  | sw
  | w
  | nw
  | center
  deriving DecidableEq, Repr

/-- ControllerState, "the only stateful entity" (R20 to R25). -/
structure ControllerState where
  leftX : Byte
  leftY : Byte
  rightX : Byte
  rightY : Byte
  leftTrigger : Byte
  rightTrigger : Byte
  buttons : ButtonSet
  dpad : DpadCode
  dpadXAxis : Byte
  dpadYAxis : Byte
  deriving DecidableEq, Repr

/-- The eight fields that the frame carries (R100, R107), with `dpad` as its four bits. -/
structure Transmitted where
  leftX : Byte
  leftY : Byte
  rightX : Byte
  rightY : Byte
  leftTrigger : Byte
  rightTrigger : Byte
  buttons : ButtonSet
  dpad : BitVec 4
  deriving DecidableEq, Repr

/-- A frame: exactly fourteen bytes, offsets 0..13 (R44, R46, R101). -/
abbrev Frame := Vector Byte 14

/-- The control state of the block agent (R35, R52).  `transmitting c frame`: command `c` of producer
`issuer` has handed `frame` to the sink and has no answer yet; the block is busy (log 24). -/
inductive Activity where
  | idle
  | transmitting (command : Instr) (frame : Frame)
  deriving DecidableEq, Repr

/-! ## The agents outside the block, as plain data -/

/-- Completion status of a command (R86). -/
inductive Status where
  | ok
  | fail
  deriving DecidableEq, Repr

/-- The sink's answer to one hand-over (R44). -/
inductive SinkAnswer where
  | ok
  | fail
  deriving DecidableEq, Repr

/-- One answered hand-over: the frame the sink took as one write and what it answered (R11, R44). -/
structure HandOver where
  frame : Frame
  answer : SinkAnswer
  deriving DecidableEq, Repr

/-- A producer (R10, R50): the command words it has still to issue, in its own order, and the statuses it has
received, oldest first. -/
structure Producer where
  program : List CommandWord
  received : List Status
  deriving DecidableEq, Repr

/-- The end of a run that a reset has cut (R150 (c), R167): what the block was doing at that moment and which producer
`issuer` named.  A command in progress there is abandoned: it never completes. -/
structure CutRun where
  activity : Activity
  issuer : Nat
  deriving DecidableEq, Repr

/-- One move of the environment (R168).  The list `State.moves` is read one move a step. -/
inductive EnvMove where
  /-- Nobody outside the block moves: the delay before a sink's answer. -/
  | quiet
  /-- The arbiter presents the next command of producer `p` at the command port. -/
  | serve (p : Nat)
  /-- The sink answers the hand-over in progress. -/
  | answer (a : SinkAnswer)
  /-- The reset source resets the block. -/
  | reset
  deriving DecidableEq, Repr

/-! ## Why a step can stop -/

/-- Faults.  The block itself has none (R130). -/
inductive Fault where
  /-- Raised by `step` when the sink answers although no hand-over is in progress: a move that R168 lists under
  "assumed never".  Safe: the model stops where the spec has no such move (log 4).  DESIGN CHOICE: the late answer to a
  hand-over that a reset abandoned is such a move too, if it comes while the block is idle (log 33). -/
  | strayAnswer
  deriving DecidableEq, Repr

/-- Refusals. -/
inductive Refusal where
  /-- Raised by an arm of `exec` whose instruction has no meaning yet; no arm does.  Safe. -/
  | notModelled (mnemonic : String)
  /-- Raised by `step` when the accepted word is a reserved encoding, which the spec gives no meaning
  (R70, U1, U2).  Safe: the model stops where the block's behaviour is undefined (log 11). -/
  | reservedEncoding (why : Reserved)
  deriving DecidableEq, Repr

/-! ## The state -/

/-- The block (first four fields), then the agents outside it and what has been observed. -/
structure State where
  /-- The ten fields of ControllerState (R20). -/
  ctl : ControllerState
  /-- Whether a sink is bound (R26). -/
  attached : Bool
  /-- Idle, or busy with a hand-over (R35). -/
  activity : Activity
  /-- Which producer's command was accepted last: what routes its completion status back to it (R144; log 8). -/
  issuer : Nat
  /-- The producers, numbered from 0 (R50, R144; log 1). -/
  producers : List Producer
  /-- The moves the environment is still to make, in order (R10, R168; log 1). -/
  moves : List EnvMove
  /-- The answered hand-overs, oldest first: the sink's byte stream with its answers (R11, R40; log 23). -/
  sink : List HandOver
  /-- The runs that resets have cut, oldest first (R150, R167; log 31).  No command and no answer reads it. -/
  cuts : List CutRun
  deriving DecidableEq, Repr

/-- `Defaults` (R31). -/
def ControllerState.defaults : ControllerState where
  leftX := Config.axisCenter
  leftY := Config.axisCenter
  rightX := Config.axisCenter
  rightY := Config.axisCenter
  leftTrigger := Config.trigRest
  rightTrigger := Config.trigRest
  buttons := 0
  dpad := .center
  dpadXAxis := Config.axisCenter
  dpadYAxis := Config.axisCenter

/-- The state after reset (R32, R150, R166 (a)): `Defaults`, no sink bound, idle, no frame ever handed over.
Outside the block nothing is there yet: no producer, no move (log 9).  `issuer` is 0 (log 8). -/
def State.reset : State where
  ctl := ControllerState.defaults
  attached := false
  activity := .idle
  issuer := 0
  producers := []
  moves := []
  sink := []
  cuts := []

end Sys2Proof.Machine
end

