-- ==== Sys2Proof/Machine/DpadMapper.lean ====
section
/-! DEFINITION. The direction-pad combinator: the three pure functions of DirectionPadMapper
(spec/41_dpad_mapper.md R90 to R97) and the canonical codes (R95). -/

namespace Sys2Proof.Machine

/-- The canonical dpad code of a state, as the `dpad` register holds it (R95). -/
def dpadBits : DpadCode → BitVec 4
  | .n => 0
  | .ne => 1
  | .e => 2
  | .se => 3
  | .s => 4
  | .sw => 5
  | .w => 6
  | .nw => 7
  | .center => 8

/-- The code as an integer, 0..8 (R95). -/
def dpadInt (d : DpadCode) : Int := (dpadBits d).toNat

/-- `fromCompass` (R90): 0..7 pass through, every other integer is centre. -/
def fromCompass (direction : Int) : DpadCode :=
  if direction = 0 then .n
  else if direction = 1 then .ne
  else if direction = 2 then .e
  else if direction = 3 then .se
  else if direction = 4 then .s
  else if direction = 5 then .sw
  else if direction = 6 then .w
  else if direction = 7 then .nw
  else .center

/-- `fromAxes` (R91): unsigned comparisons of each axis with 128. -/
def fromAxes (x y : Byte) : DpadCode :=
  if x = Config.axisCenter then
    (if y = Config.axisCenter then .center else if y < Config.axisCenter then .n else .s)
  else if x < Config.axisCenter then
    (if y = Config.axisCenter then .w else if y < Config.axisCenter then .nw else .sw)
  else
    (if y = Config.axisCenter then .e else if y < Config.axisCenter then .ne else .se)

/-- `toAxes` (R93): defined for every integer; a code outside 0..8 gives the centre. -/
def toAxes (code : Int) : Byte × Byte :=
  if code = 0 then (Config.axisCenter, Config.axisLow)
  else if code = 1 then (Config.axisHigh, Config.axisLow)
  else if code = 2 then (Config.axisHigh, Config.axisCenter)
  else if code = 3 then (Config.axisHigh, Config.axisHigh)
  else if code = 4 then (Config.axisCenter, Config.axisHigh)
  else if code = 5 then (Config.axisLow, Config.axisHigh)
  else if code = 6 then (Config.axisLow, Config.axisCenter)
  else if code = 7 then (Config.axisLow, Config.axisLow)
  else (Config.axisCenter, Config.axisCenter)

end Sys2Proof.Machine
end

