-- ==== Sys2Proof/Machine/Operands.lean ====
section
/-! DEFINITION. Operands and the fields they reach: the fail-soft replacement of out-of-domain values
(spec/60_exceptions.md R134), the lanes of the packed word (spec/30_encoding.md R68), and the writes of one
selected field (R66, spec/10_state.md R27). -/

namespace Sys2Proof.Machine

/-- A value in 0..255 is stored as given, any other is replaced by `default` (R64, R134: the whole signed
integer is tested, and "clamp" is not saturation). -/
def failSoft (default : Byte) (value : Int) : Byte :=
  if 0 ≤ value ∧ value ≤ 255 then BitVec.ofInt 8 value else default

/-- The value `setAxis` stores (R120; log 14). -/
def stickValue (value : Int) : Byte := failSoft Config.axisOorValue value

/-- The value `setTrigger` stores (R121; log 14). -/
def triggerValue (value : Int) : Byte := failSoft Config.trigOorValue value

/-- The value `setDpadAxis` stores (R125). -/
def dpadAxisValue (value : Int) : Byte := failSoft Config.dpadAxisOorValue value

/-- Lane `k` of the packed word: bits 8k+7 : 8k (R68, R122). -/
def packedLane (k : Nat) (word : Operand) : Byte := word.extractLsb' (8 * k) 8

/-- Write one stick field (R120). -/
def writeStick (which : StickAxis) (v : Byte) (c : ControllerState) : ControllerState :=
  match which with
  | .leftX => { c with leftX := v }
  | .leftY => { c with leftY := v }
  | .rightX => { c with rightX := v }
  | .rightY => { c with rightY := v }

/-- Write one trigger field (R121). -/
def writeTrigger (which : TriggerSide) (v : Byte) (c : ControllerState) : ControllerState :=
  match which with
  | .left => { c with leftTrigger := v }
  | .right => { c with rightTrigger := v }

/-- Write one shadow axis (R125). -/
def writeShadow (which : DpadAxis) (v : Byte) (c : ControllerState) : ControllerState :=
  match which with
  | .x => { c with dpadXAxis := v }
  | .y => { c with dpadYAxis := v }

/-- The derive phase: `dpad` from the shadow axes (R80, R125). -/
def deriveDpad (c : ControllerState) : ControllerState :=
  { c with dpad := fromAxes c.dpadXAxis c.dpadYAxis }

/-- The compass path: `dpad` as given and the shadow axes back-filled from it (R126). -/
def writeCompass (d : DpadCode) (c : ControllerState) : ControllerState :=
  { c with dpad := d, dpadXAxis := (toAxes (dpadInt d)).1, dpadYAxis := (toAxes (dpadInt d)).2 }

end Sys2Proof.Machine
end

