-- ==== Sys2Proof/Machine/FrameEncoder.lean ====
section
/-! DEFINITION. The frame encoder: ControllerState snapshot to fourteen bytes (spec/42_frame_encoder.md R100 to
R109), and reading the transmitted fields back from a frame (R107 (b)). -/

namespace Sys2Proof.Machine

/-- Byte 8: `((buttons & 0x0F) << 4) | dpad` (R103). -/
def packLowButtons (buttons : ButtonSet) (dpad : DpadCode) : Byte :=
  ((buttons &&& 0x0F).setWidth 8 <<< 4) ||| (dpadBits dpad).setWidth 8

/-- Byte 9: `(buttons >> 4) & 0xFF` (R104). -/
def packMidButtons (buttons : ButtonSet) : Byte := ((buttons >>> 4) &&& 0xFF).setWidth 8

/-- Byte 10: `buttons >> 12` (R104). -/
def packHighButtons (buttons : ButtonSet) : Byte := (buttons >>> 12).setWidth 8

/-- `Encode(S)` (R100, R101).  The shadow axes are not read. -/
def encodeFrame (c : ControllerState) : Frame :=
  #v[Config.stx, Config.lenInd, Config.reportType, Config.reportId,
     c.leftX, c.leftY, c.rightX, c.rightY,
     packLowButtons c.buttons c.dpad, packMidButtons c.buttons, packHighButtons c.buttons,
     c.leftTrigger, c.rightTrigger, Config.etx]

/-- The transmitted part of a state (R100). -/
def ControllerState.transmitted (c : ControllerState) : Transmitted where
  leftX := c.leftX
  leftY := c.leftY
  rightX := c.rightX
  rightY := c.rightY
  leftTrigger := c.leftTrigger
  rightTrigger := c.rightTrigger
  buttons := c.buttons
  dpad := dpadBits c.dpad

/-- The transmitted part read back from a frame, by the formulas of R107 (b). -/
def readFrame (f : Frame) : Transmitted where
  leftX := f[4]
  leftY := f[5]
  rightX := f[6]
  rightY := f[7]
  leftTrigger := f[11]
  rightTrigger := f[12]
  buttons := (f[8] >>> 4).setWidth 14 ||| (f[9].setWidth 14 <<< 4) ||| ((f[10] &&& 3).setWidth 14 <<< 12)
  dpad := (f[8] &&& 0x0F).setWidth 4

end Sys2Proof.Machine
end

