-- ==== Sys2Proof/Machine/Ops.lean ====
section
/-! DEFINITION. The operations that the ten commands share: the updates of one field of the state, acceptance of a
command, the hand-over to the sink, completion, transport failure (the block's one exception), reset
(spec/40_execution_cycle.md R80 to R88, spec/20_memory.md R43, R44, R51, R52, spec/60_exceptions.md R131 to R137,
spec/70_reset_and_hazards.md R150). -/

namespace Sys2Proof.Machine

/-- What a step answers. -/
abbrev Result := Host.Outcome State Fault Refusal

/-! ## One field of the state -/

def State.withCtl (c : ControllerState) (s : State) : State := { s with ctl := c }

def State.withAttached (b : Bool) (s : State) : State := { s with attached := b }

def State.withActivity (a : Activity) (s : State) : State := { s with activity := a }

def State.withIssuer (p : Nat) (s : State) : State := { s with issuer := p }

def State.withProducers (ps : List Producer) (s : State) : State := { s with producers := ps }

def State.withMoves (ms : List EnvMove) (s : State) : State := { s with moves := ms }

def State.withSink (hs : List HandOver) (s : State) : State := { s with sink := hs }

/-! ## Completion (R86) -/

/-- The code of a completion status: OK = 0, FAIL = 1 (R86, D17; log 22). -/
def statusCode : Status → BitVec 1
  | .ok => 0
  | .fail => 1

/-- A producer receives one status. -/
def Producer.receive (st : Status) (p : Producer) : Producer :=
  { p with received := p.received ++ [st] }

/-- The status goes to producer `p` and to no other (R86). -/
def deliver (p : Nat) (st : Status) (ps : List Producer) : List Producer :=
  ps.modify p (Producer.receive st)

/-- `complete(status)`: the block is idle again and the issuing producer has its status (R8, R81). -/
def complete (st : Status) (s : State) : State :=
  (s.withActivity .idle).withProducers (deliver s.issuer st s.producers)

/-- `raise TransportFailure`: the block's one exception.  The command completes with FAIL; there is no other
effect: nothing is saved, no mode changes, and the state already written stays written (R131, R133, R137). -/
def transportFailure (s : State) : State := complete .fail s

/-! ## The hand-over to the sink (R43, R44) -/

/-- The sink has taken the whole frame as one write and answered. -/
def recordHandOver (frame : Frame) (a : SinkAnswer) (s : State) : State :=
  s.withSink (s.sink ++ [⟨frame, a⟩])

/-- The end of a command whose hand-over is answered (R81). -/
def answerHandOver (frame : Frame) (a : SinkAnswer) (s : State) : State :=
  match a with
  | .ok => complete .ok (recordHandOver frame a s)
  | .fail => transportFailure (recordHandOver frame a s)

/-- While a hand-over is in progress, take the sink's answer if that is the environment's next move; otherwise
the block stays busy (R52, R146). -/
def awaitAnswer (s : State) : State :=
  match s.activity, s.moves with
  | .transmitting _ frame, .answer a :: rest => answerHandOver frame a (s.withMoves rest)
  | _, _ => s

/-- `SinkWrite(F)` on behalf of command `c`: the whole frame is handed over, and the command completes when the
sink answers, which may be at once (log 3). -/
def sinkWrite (c : Instr) (frame : Frame) (s : State) : State :=
  awaitAnswer (s.withActivity (.transmitting c frame))

/-- The phases after `Mutate_c` of a command that emits: encode and transmit if a sink is bound, else complete with
FAIL (R81, R84; log 15). -/
def emitFrame (c : Instr) (s : State) : Result :=
  if s.attached then .next (sinkWrite c (encodeFrame s.ctl) s) else .next (transportFailure s)

/-- The phases after `Mutate_c` of `detach`: complete with OK, no frame (R81, R84). -/
def emitNothing (s : State) : Result := .next (complete .ok s)

/-! ## Acceptance (R51, R82) -/

/-- The next command of producer `p`, and the state in which the block has accepted it; none if `p` waits with
no command. -/
def accept (p : Nat) (s : State) : Option (CommandWord × State) :=
  match s.producers[p]? with
  | some ⟨w :: rest, received⟩ =>
    some (w, (s.withProducers (s.producers.set p ⟨rest, received⟩)).withIssuer p)
  | _ => none

/-- Put a command in front of producer 0's program, adding the producer if there is none. -/
def offerFirst (w : CommandWord) : List Producer → List Producer
  | [] => [⟨[w], []⟩]
  | p :: ps => { p with program := w :: p.program } :: ps

/-! ## Reset (R150) -/

/-- Reset of the block: `Defaults`, no sink bound, idle; a command in progress is abandoned without a status
and no frame is emitted.  The run under way ends here and is recorded as cut (R167; log 31); the agents outside and
what they have observed stay (R151; log 7).  DESIGN CHOICE: R150 (c) and U5 leave open what the sink got of a frame whose
hand-over is abandoned; it is not entered in `sink`, and only `cuts` keeps it (log 32). -/
def resetBlock (s : State) : State :=
  { s with ctl := State.reset.ctl, attached := State.reset.attached, activity := State.reset.activity,
           issuer := State.reset.issuer, cuts := s.cuts ++ [⟨s.activity, s.issuer⟩] }

/-! ## What the outside can tell (R11, R35, R40) -/

/-- The byte stream the sink has received: whole frames, offset 0 first (R44, R54). -/
def byteStream (s : State) : List Byte := s.sink.flatMap fun h => h.frame.toList

/-- The last frame the sink took with OK: what the receiver believes (R35 (b), U6). -/
def lastReceived (s : State) : Option Frame :=
  ((s.sink.filter fun h => h.answer == .ok).getLast?).map HandOver.frame

end Sys2Proof.Machine
end

