-- ==== Sys2Proof/Machine/Axes.lean ====
section
/-! DEFINITION. The stick and trigger commands `setAxis`, `setTrigger`, `setAllAxesPacked`
(spec/45_axis_trigger_commands.md R120 to R122). -/

namespace Sys2Proof.Machine

/-- `Mutate_setAxis` (R120). -/
def mutateSetAxis (which : StickAxis) (value : Int) (s : State) : State :=
  s.withCtl (writeStick which (stickValue value) s.ctl)

/-- `setAxis` (R120). -/
def execSetAxis (which : StickAxis) (value : Int) (s : State) : Result :=
  emitFrame (.setAxis which value) (mutateSetAxis which value s)

/-- `Mutate_setTrigger` (R121). -/
def mutateSetTrigger (which : TriggerSide) (value : Int) (s : State) : State :=
  s.withCtl (writeTrigger which (triggerValue value) s.ctl)

/-- `setTrigger` (R121). -/
def execSetTrigger (which : TriggerSide) (value : Int) (s : State) : Result :=
  emitFrame (.setTrigger which value) (mutateSetTrigger which value s)

/-- `Mutate_setAllAxesPacked` (R122): lane k goes to the field at frame offset 4 + k. -/
def mutateSetAllAxesPacked (word : Operand) (s : State) : State :=
  s.withCtl { s.ctl with
    leftX := packedLane 0 word
    leftY := packedLane 1 word
    rightX := packedLane 2 word
    rightY := packedLane 3 word }

/-- `setAllAxesPacked` (R122). -/
def execSetAllAxesPacked (word : Operand) (s : State) : Result :=
  emitFrame (.setAllAxesPacked word) (mutateSetAllAxesPacked word s)

end Sys2Proof.Machine
end

