-- ==== Sys2Proof/Machine/Flags.lean ====
section
/-! DEFINITION. The fourteen button flags.  The block has no status flags and no condition codes
(spec/10_state.md R34); the button flags are data, flag i in bit i (R23, D6; log 13). -/

namespace Sys2Proof.Machine

/-- The mask of flag `index`: `1 << index` (R23). -/
def flagMask (index : Fin 14) : ButtonSet := 1 <<< index.val

/-- Set flag `index`: `buttons | (1 << index)` (R115). -/
def setFlag (index : Fin 14) (buttons : ButtonSet) : ButtonSet := buttons ||| flagMask index

/-- Clear flag `index`: `buttons & (0x3FFF - (1 << index))` (R115). -/
def clearFlag (index : Fin 14) (buttons : ButtonSet) : ButtonSet :=
  buttons &&& (Config.buttonMask - flagMask index)

/-- Flag `index` becomes `pressed` (R115). -/
def writeFlag (index : Fin 14) (pressed : Bool) (buttons : ButtonSet) : ButtonSet :=
  if pressed then setFlag index buttons else clearFlag index buttons

end Sys2Proof.Machine
end

