-- ==== Sys2Proof/Machine/Buttons.lean ====
section
/-! DEFINITION. The button commands `setButton`, `setAllButtons`, `releaseAllButtons`
(spec/44_button_commands.md R115 to R117). -/

namespace Sys2Proof.Machine

/-- Replace the button register, nothing else. -/
def writeButtons (buttons : ButtonSet) (s : State) : State := s.withCtl { s.ctl with buttons := buttons }

/-- `Mutate_setButton` (R115). -/
def mutateSetButton (index : Fin 14) (pressed : Bool) (s : State) : State :=
  writeButtons (writeFlag index pressed s.ctl.buttons) s

/-- `setButton` (R115). -/
def execSetButton (index : Fin 14) (pressed : Bool) (s : State) : Result :=
  emitFrame (.setButton index pressed) (mutateSetButton index pressed s)

/-- `Mutate_setAllButtons` (R116). -/
def mutateSetAllButtons (mask : ButtonSet) (s : State) : State := writeButtons mask s

/-- `setAllButtons` (R116). -/
def execSetAllButtons (mask : ButtonSet) (s : State) : Result :=
  emitFrame (.setAllButtons mask) (mutateSetAllButtons mask s)

/-- `Mutate_releaseAllButtons` (R117). -/
def mutateReleaseAllButtons (s : State) : State := writeButtons 0 s

/-- `releaseAllButtons` (R117). -/
def execReleaseAllButtons (s : State) : Result := emitFrame .releaseAllButtons (mutateReleaseAllButtons s)

end Sys2Proof.Machine
end

