-- ==== Sys2Proof/Machine/Dpad.lean ====
section
/-! DEFINITION. The directional-pad commands `setDpadAxis`, `setDpadCompass` (spec/46_dpad_commands.md R125 to
R127). -/

namespace Sys2Proof.Machine

/-- `Mutate_setDpadAxis` (R125): replace an out-of-range value, store it, then derive `dpad` from the stored pair. -/
def mutateSetDpadAxis (which : DpadAxis) (value : Int) (s : State) : State :=
  s.withCtl (deriveDpad (writeShadow which (dpadAxisValue value) s.ctl))

/-- `setDpadAxis` (R125). -/
def execSetDpadAxis (which : DpadAxis) (value : Int) (s : State) : Result :=
  emitFrame (.setDpadAxis which value) (mutateSetDpadAxis which value s)

/-- `Mutate_setDpadCompass` (R126). -/
def mutateSetDpadCompass (direction : Int) (s : State) : State :=
  s.withCtl (writeCompass (fromCompass direction) s.ctl)

/-- `setDpadCompass` (R126). -/
def execSetDpadCompass (direction : Int) (s : State) : Result :=
  emitFrame (.setDpadCompass direction) (mutateSetDpadCompass direction s)

end Sys2Proof.Machine
end

