-- ==== Sys2Proof/Machine/Session.lean ====
section
/-! DEFINITION. The session commands `attach` and `detach` (spec/43_session_commands.md R110, R111). -/

namespace Sys2Proof.Machine

/-- `Mutate_attach`: `Defaults` and `attached <- 1`, as one transition (R110). -/
def mutateAttach (s : State) : State := (s.withCtl ControllerState.defaults).withAttached true

/-- `attach` (R110). -/
def execAttach (s : State) : Result := emitFrame .attach (mutateAttach s)

/-- `Mutate_detach`: `attached <- 0`, the ten fields as they are (R111; log 16). -/
def mutateDetach (s : State) : State := s.withAttached false

/-- `detach` (R111). -/
def execDetach (s : State) : Result := emitNothing (mutateDetach s)

end Sys2Proof.Machine
end

