-- ==== Sys2Proof/Machine/Dispatch.lean ====
section
/-! DEFINITION. `exec`: one arm per command, each a direct call of its meaning. -/

namespace Sys2Proof.Machine

def exec (i : Instr) (s : State) : Host.Outcome State Fault Refusal :=
  match i with
  | .attach => Sys2Proof.Machine.execAttach s
  | .detach => Sys2Proof.Machine.execDetach s
  | .setButton index pressed => Sys2Proof.Machine.execSetButton index pressed s
  | .setAllButtons mask => Sys2Proof.Machine.execSetAllButtons mask s
  | .releaseAllButtons => Sys2Proof.Machine.execReleaseAllButtons s
  | .setAxis which value => Sys2Proof.Machine.execSetAxis which value s
  | .setTrigger which value => Sys2Proof.Machine.execSetTrigger which value s
  | .setDpadAxis which value => Sys2Proof.Machine.execSetDpadAxis which value s
  | .setDpadCompass direction => Sys2Proof.Machine.execSetDpadCompass direction s
  | .setAllAxesPacked word => Sys2Proof.Machine.execSetAllAxesPacked word s

end Sys2Proof.Machine
end

