-- ==== Sys2Proof/Machine/Step.lean ====
section
/-! DEFINITION. One step: the environment's next move and what the block does on it (spec/20_memory.md R50 to R53,
spec/40_execution_cycle.md R81, R82, spec/60_exceptions.md R146, spec/70_reset_and_hazards.md R150, R168). -/

namespace Sys2Proof.Machine

/-- The arbiter presents the next command of producer `p` to an idle block, which accepts and runs it; a
reserved encoding has no meaning (R70, R82).  A producer with no command presents nothing (log 5). -/
def stepServe (p : Nat) (s : State) : Host.Outcome State Fault Refusal :=
  match accept p s with
  | none => .next s
  | some (w, accepted) =>
    match decode w with
    | .command i => exec i accepted
    | .reserved why => .refused (.reservedEncoding why)

/-- One step.  With no move left nothing happens, an unanswered hand-over included (R52, R146; log 6).
DESIGN CHOICE: the spec has nothing after a reset but a new run, so a late answer to a hand-over that a reset abandoned is
taken like any other answer: a fault if the block is idle, else the answer to the hand-over now in progress (log 33). -/
def step (s : State) : Host.Outcome State Fault Refusal :=
  match s.moves with
  | [] => .next s
  | .quiet :: rest => .next (s.withMoves rest)
  | .reset :: rest => .next (resetBlock (s.withMoves rest))
  | .answer _ :: _ =>
    match s.activity with
    | .idle => .fault .strayAnswer
    | .transmitting _ _ => .next (awaitAnswer s)
  | .serve p :: rest =>
    match s.activity with
    | .idle => stepServe p (s.withMoves rest)
    | .transmitting _ _ => .next (s.withMoves rest)

/-- `s` with that command word as the first of producer 0's program, the block idle, and the environment's next
move serving producer 0, so that the next step accepts and runs it (log 9). -/
def State.withFetchWord (s : State) (nbits w : Nat) : State :=
  { s with
    activity := .idle
    producers := offerFirst (tableWord nbits w) s.producers
    moves := .serve 0 :: s.moves }

end Sys2Proof.Machine
end

