-- ==== Sys2Proof/Machine/Text.lean ====
section
/-! DEFINITION. The textual syntax of a command: the source's own call notation, read into an abstract command and
assembled into a command word (spec/30_encoding.md R74; log 28). -/

namespace Sys2Proof.Machine.Text

/-- The value of a decimal digit. -/
def decimalDigit (c : Char) : Option Nat :=
  if 48 ≤ c.toNat ∧ c.toNat ≤ 57 then some (c.toNat - 48) else none

/-- The value of a hexadecimal digit, in either case. -/
def hexDigit (c : Char) : Option Nat :=
  if 97 ≤ c.toNat ∧ c.toNat ≤ 102 then some (c.toNat - 87)
  else if 65 ≤ c.toNat ∧ c.toNat ≤ 70 then some (c.toNat - 55)
  else decimalDigit c

/-- The digits that follow a number read so far. -/
def readDigits (digit : Char → Option Nat) (base : Nat) : Nat → List Char → Option Nat
  | soFar, [] => some soFar
  | soFar, c :: cs =>
    match digit c with
    | some d => readDigits digit base (soFar * base + d) cs
    | none => none

/-- An unsigned integer, decimal or `0x` hexadecimal. -/
def readNat : List Char → Option Nat
  | [] => none
  | '0' :: 'x' :: c :: cs => readDigits hexDigit 16 0 (c :: cs)
  | c :: cs => readDigits decimalDigit 10 0 (c :: cs)

/-- A signed integer: a number in either base, or a minus sign and one.  DESIGN CHOICE: R74 does not say whether a plus sign
may lead it; none is read (log 28). -/
def readInt : List Char → Option Int
  | '-' :: cs => (readNat cs).map fun n => -(n : Int)
  | cs => (readNat cs).map fun n => (n : Int)

/-- Without the spaces at its front. -/
def dropSpaces : List Char → List Char
  | ' ' :: cs => dropSpaces cs
  | cs => cs

/-- Without the spaces at its two ends. -/
def trim (cs : List Char) : List Char := (dropSpaces (dropSpaces cs).reverse).reverse

/-- The parts between the separators. -/
def splitAtChar (sep : Char) : List Char → List (List Char)
  | [] => [[]]
  | c :: cs =>
    if c = sep then [] :: splitAtChar sep cs
    else match splitAtChar sep cs with
      | part :: parts => (c :: part) :: parts
      | [] => [[c]]

/-- The operands between the parentheses. -/
def readOperands (cs : List Char) : List (List Char) :=
  if trim cs = [] then [] else (splitAtChar ',' cs).map trim

/-- The operation name and the operands of a call. -/
def readCall (cs : List Char) : Option (List Char × List (List Char)) :=
  match splitAtChar '(' (trim cs) with
  | [name, rest] =>
    match rest.reverse with
    | ')' :: inside => some (trim name, readOperands inside.reverse)
    | _ => none
  | _ => none

/-- The value a symbol names in a table of symbols. -/
def symbol {α : Type} (table : List (String × α)) (cs : List Char) : Option α :=
  (table.find? fun entry => entry.1.toList == cs).map Prod.snd

/-- An operand that is a symbol of the table or else a number, in either base. -/
def symbolOr {α : Type} (table : List (String × α)) (number : List Char → Option α) (cs : List Char) : Option α :=
  match symbol table cs with
  | some a => some a
  | none => number cs

/-- An unsigned integer of at most `bits` bits. -/
def readBits (bits : Nat) (cs : List Char) : Option (BitVec bits) :=
  match readNat cs with
  | some n => if n < 2 ^ bits then some (BitVec.ofNat bits n) else none
  | none => none

/-- `which` of `setAxis`: a name or its selector number 0..3 (R66, R74). -/
def readStick : List Char → Option StickAxis :=
  symbolOr [("leftX", .leftX), ("leftY", .leftY), ("rightX", .rightX), ("rightY", .rightY)]
    fun cs => (readBits 4 cs).bind stickAxisOf

/-- `which` of `setTrigger`: a name or its selector number 0, 1 (R66, R74). -/
def readTrigger : List Char → Option TriggerSide :=
  symbolOr [("left", .left), ("right", .right)] fun cs => (readBits 4 cs).bind triggerSideOf

/-- `which` of `setDpadAxis`: a name or its selector number 0, 1 (R66, R74). -/
def readDpadAxis : List Char → Option DpadAxis :=
  symbolOr [("x", .x), ("y", .y)] fun cs => (readBits 4 cs).bind dpadAxisOf

/-- `pressed`: 0 or 1, also written `false`, `true`. -/
def readPressed : List Char → Option Bool :=
  symbolOr [("false", false), ("true", true)] fun cs => (readBits 1 cs).map fun b => b == 1

/-- `direction`: a compass letter, `center` (the integer 8), or a signed integer (R69, R74). -/
def readDirection : List Char → Option Int :=
  symbolOr [("N", 0), ("NE", 1), ("E", 2), ("SE", 3), ("S", 4), ("SW", 5), ("W", 6), ("NW", 7), ("center", 8)] readInt

/-- `index`, 0..13. -/
def readIndex (cs : List Char) : Option (Fin 14) :=
  match readNat cs with
  | some n => if h : n < 14 then some ⟨n, h⟩ else none
  | none => none

/-- Commands without operands. -/
def readPlain (name : List Char) : Option Instr :=
  symbol [("attach", .attach), ("detach", .detach), ("releaseAllButtons", .releaseAllButtons)] name

/-- Commands with one operand. -/
def readUnary (name a : List Char) : Option Instr :=
  if name = "setAllButtons".toList then (readBits 14 a).map .setAllButtons
  else if name = "setDpadCompass".toList then (readDirection a).map .setDpadCompass
  else if name = "setAllAxesPacked".toList then (readBits 32 a).map .setAllAxesPacked
  else none

/-- A command of two operands from the readings of both. -/
def pair {α β : Type} (build : α → β → Instr) (a : Option α) (b : Option β) : Option Instr :=
  match a, b with
  | some x, some y => some (build x y)
  | _, _ => none

/-- Commands with two operands. -/
def readBinary (name a b : List Char) : Option Instr :=
  if name = "setButton".toList then pair .setButton (readIndex a) (readPressed b)
  else if name = "setAxis".toList then pair .setAxis (readStick a) (readInt b)
  else if name = "setTrigger".toList then pair .setTrigger (readTrigger a) (readInt b)
  else if name = "setDpadAxis".toList then pair .setDpadAxis (readDpadAxis a) (readInt b)
  else none

/-- The abstract command a text denotes (R74). -/
def parse (text : String) : Option Instr :=
  match readCall text.toList with
  | some (name, []) => readPlain name
  | some (name, [a]) => readUnary name a
  | some (name, [a, b]) => readBinary name a b
  | _ => none

/-- The command word of a text, where it has one. -/
def assemble (text : String) : Option CommandWord :=
  match parse text with
  | some i => if i.wellFormed then some (encode i) else none
  | none => none

end Sys2Proof.Machine.Text
end

