-- ==== Sys2Proof/Safety.lean ====
section
/-! DEFINITION. The terms in which claims about the machine are made: what stays true in every reachable state
(spec/10_state.md R29, R30, R35, R37, spec/70_reset_and_hazards.md R166), what a run conserves (R51, R54, R167), who writes
what (R27), and when two states cannot be told apart (R36, R88, R133). -/

namespace Sys2Proof.Machine

/-- The next state of an outcome, if it is one. -/
def nextState? : Host.Outcome State Fault Refusal → Option State
  | .next s => some s
  | .fault _ => none
  | .refused _ => none

/-! ## The invariant -/

/-- R29: `dpad` is `fromAxes` of the shadow axes. -/
abbrev ControllerState.consistent (c : ControllerState) : Prop := c.dpad = fromAxes c.dpadXAxis c.dpadYAxis

/-- R102, R103, R104: the constant bytes, a dpad code 0..8 in the low nibble of byte 8, bits 7:2 of byte 10 zero. -/
abbrev frameSound (f : Frame) : Prop :=
  f[0] = 2 ∧ f[1] = 11 ∧ f[2] = 3 ∧ f[3] = 1 ∧ f[13] = 3 ∧ f[8].toNat % 16 ≤ 8 ∧ f[10].toNat ≤ 3

/-- R30, R84, R85: while a hand-over is in progress its frame is that of the present state, a sink is bound, the
command is not `detach`, and its producer exists. -/
def handOverSound (s : State) : Prop :=
  match s.activity with
  | .idle => True
  | .transmitting c frame =>
    frame = encodeFrame s.ctl ∧ s.attached = true ∧ c ≠ .detach ∧ s.issuer < s.producers.length

/-- What every reachable state satisfies. -/
def Inv (s : State) : Prop :=
  s.ctl.consistent ∧ handOverSound s ∧ ∀ h ∈ s.sink, frameSound h.frame

/-! ## What a run conserves -/

/-- The frame that a control state is handing over, if there is one. -/
@[simp] def Activity.frames : Activity → List Frame
  | .idle => []
  | .transmitting _ frame => [frame]

/-- The frame being handed over, if there is one. -/
def outstanding (s : State) : List Frame := s.activity.frames

/-- The frames whose hand-over a reset has abandoned, oldest first (R150 (c)). -/
def abandonedFrames (s : State) : List Frame := s.cuts.flatMap fun c => c.activity.frames

/-- All the frames handed to the sink (R11), in order, the one it has not answered included.  DESIGN CHOICE: a frame
whose hand-over a reset abandoned does not count among them, since R150 (c) and U5 leave open what the sink got of it; it
is found in `abandonedFrames` (log 32). -/
def handedOver (s : State) : List Frame := s.sink.map HandOver.frame ++ outstanding s

/-- Commands the producers have still to issue. -/
def commandsWaiting (s : State) : Nat := (s.producers.map fun p => p.program.length).sum

/-- Commands accepted and not complete: 0 or 1 (R52). -/
def commandsInProgress (s : State) : Nat := (outstanding s).length

/-- Statuses that producers have received. -/
def statusesDelivered (s : State) : Nat := (s.producers.map fun p => p.received.length).sum

/-- Commands that resets have abandoned, which never complete (R150 (c)). -/
def commandsAbandoned (s : State) : Nat := (abandonedFrames s).length

/-! ## The end of a run (R167).  A run starts from an idle state `start` (R166) and has come to the state `now`. -/

/-- Every producer has issued every command of its sequence. -/
def everyCommandIssued (now : State) : Prop := ∀ p ∈ now.producers, p.program = []

/-- Every command issued since `start` has completed: each producer has received as many statuses as it has issued
commands. -/
def everyCommandCompleted (start now : State) : Prop :=
  List.Forall₂ (fun before after : Producer =>
    after.received.length + after.program.length = before.received.length + before.program.length)
    start.producers now.producers

/-- A reset has cut the run: it ended there, without completion of a command that was in progress. -/
def runCut (start now : State) : Prop := now.cuts ≠ start.cuts

/-- The run is over: every command issued, every issued command completed, the block idle, and no reset has cut it. -/
def runOver (start now : State) : Prop :=
  everyCommandIssued now ∧ everyCommandCompleted start now ∧ now.activity = .idle ∧ ¬ runCut start now

/-- The run has ended, in one of the two ways R167 gives.  A hand-over that is never answered ends none. -/
def runEnded (start now : State) : Prop := runOver start now ∨ runCut start now

/-- No producer has a `detach` left to issue, and no reset will come: the premises of the source's count of frames
(R54). -/
def updatesOnly (s : State) : Prop :=
  (∀ p ∈ s.producers, ∀ w ∈ p.program, decode w ≠ .command .detach) ∧ ∀ m ∈ s.moves, m ≠ .reset

/-- The transition of a command's mutate phase, its derive phase included (R80, R81). -/
def mutate (i : Instr) (s : State) : State :=
  match i with
  | .attach => mutateAttach s
  | .detach => mutateDetach s
  | .setButton index pressed => mutateSetButton index pressed s
  | .setAllButtons mask => mutateSetAllButtons mask s
  | .releaseAllButtons => mutateReleaseAllButtons s
  | .setAxis which value => mutateSetAxis which value s
  | .setTrigger which value => mutateSetTrigger which value s
  | .setDpadAxis which value => mutateSetDpadAxis which value s
  | .setDpadCompass direction => mutateSetDpadCompass direction s
  | .setAllAxesPacked word => mutateSetAllAxesPacked word s

/-- The frames of a sequence of commands executed one after another: each is `Encode` of the state right after its
command's mutation (R54). -/
def framesInOrder : State → List Instr → List Frame
  | _, [] => []
  | s, i :: is => encodeFrame (mutate i s).ctl :: framesInOrder (mutate i s) is

/-! ## Who writes what -/

/-- The eleven columns of the access matrix (R27). -/
inductive Field where
  | leftX
  | leftY
  | rightX
  | rightY
  | leftTrigger
  | rightTrigger
  | buttons
  | dpad
  | dpadXAxis
  | dpadYAxis
  | attached
  deriving DecidableEq, Repr

/-- The value of a field as a number (R20). -/
def State.field (f : Field) (s : State) : Nat :=
  match f with
  | .leftX => s.ctl.leftX.toNat
  | .leftY => s.ctl.leftY.toNat
  | .rightX => s.ctl.rightX.toNat
  | .rightY => s.ctl.rightY.toNat
  | .leftTrigger => s.ctl.leftTrigger.toNat
  | .rightTrigger => s.ctl.rightTrigger.toNat
  | .buttons => s.ctl.buttons.toNat
  | .dpad => (dpadBits s.ctl.dpad).toNat
  | .dpadXAxis => s.ctl.dpadXAxis.toNat
  | .dpadYAxis => s.ctl.dpadYAxis.toNat
  | .attached => s.attached.toNat

/-- The fields a command may write, row by row as R27 lists them. -/
def fieldsWritten : Instr → List Field
  | .attach => [.leftX, .leftY, .rightX, .rightY, .leftTrigger, .rightTrigger, .buttons, .dpad, .dpadXAxis,
      .dpadYAxis, .attached]
  | .detach => [.attached]
  | .setButton _ _ => [.buttons]
  | .setAllButtons _ => [.buttons]
  | .releaseAllButtons => [.buttons]
  | .setAxis .leftX _ => [.leftX]
  | .setAxis .leftY _ => [.leftY]
  | .setAxis .rightX _ => [.rightX]
  | .setAxis .rightY _ => [.rightY]
  | .setTrigger .left _ => [.leftTrigger]
  | .setTrigger .right _ => [.rightTrigger]
  | .setDpadAxis .x _ => [.dpad, .dpadXAxis]
  | .setDpadAxis .y _ => [.dpad, .dpadYAxis]
  | .setDpadCompass _ => [.dpad, .dpadXAxis, .dpadYAxis]
  | .setAllAxesPacked _ => [.leftX, .leftY, .rightX, .rightY]

/-! ## States that cannot be told apart -/

/-- Two outcomes of the same kind, with related next states or the same reason to stop. -/
def sameOutcome (related : State → State → Prop) :
    Host.Outcome State Fault Refusal → Host.Outcome State Fault Refusal → Prop
  | .next t, .next t' => related t t'
  | .fault r, .fault r' => r = r'
  | .refused r, .refused r' => r = r'
  | _, _ => False

/-- R36: the two states differ at most in the ten fields, and not even in them while a sink is bound. -/
def sameOutside (s s' : State) : Prop :=
  s' = s.withCtl s'.ctl ∧ (s.attached = true → s'.ctl = s.ctl)

/-- Two producers that differ at most in which statuses they received, not in how many. -/
def sameButStatuses (p p' : Producer) : Prop :=
  p'.program = p.program ∧ p'.received.length = p.received.length

/-- Two moves that differ at most in which answer the sink gives. -/
def sameButAnswer (m m' : EnvMove) : Prop :=
  m' = m ∨ ∃ a a', m = .answer a ∧ m' = .answer a'

/-- R88, R133: the two states differ at most in what the sink answers and answered, and in the statuses that follow from
it. -/
def sameButAnswers (s s' : State) : Prop :=
  s'.ctl = s.ctl ∧ s'.attached = s.attached ∧ s'.activity = s.activity ∧ s'.issuer = s.issuer ∧
  List.Forall₂ sameButStatuses s.producers s'.producers ∧ List.Forall₂ sameButAnswer s.moves s'.moves ∧
  s'.sink.map HandOver.frame = s.sink.map HandOver.frame ∧ s'.cuts = s.cuts

end Sys2Proof.Machine
end

