-- ==== Sys2Proof/Certificates/Slice0/Obligations.lean ====
section
/-! DEFINITION. The statements for the provers.  Each docstring names the rules of spec/ it formalises; where a clause
rests on a decision the spec marks as its own (D<n> of spec/92_eei_decisions.md) or on the model's log, it says so. -/

open Sys2Proof Sys2Proof.Machine

/-! ## Command words.  The command word is the spec's own decision throughout (D2, D3, D4, D5, D7, D8, D9; logs 11, 19). -/

/-- Words written out from the format and the opcode map of spec/30_encoding.md decode to what they stand for. -/
def Obligations.WordsOfTheSpecDecode : Prop :=
  decode 0x0000000000 = .command .attach ∧
  decode 0x1000000000 = .command .detach ∧
  decode 0x2D00000001 = .command (.setButton 13 true) ∧
  decode 0x3000001234 = .command (.setAllButtons 0x1234) ∧
  decode 0x4000000000 = .command .releaseAllButtons ∧
  decode 0x50FFFFFFFF = .command (.setAxis .leftX (-1)) ∧
  decode 0x6100000040 = .command (.setTrigger .right 64) ∧
  decode 0x710000012C = .command (.setDpadAxis .y 300) ∧
  decode 0x8000000007 = .command (.setDpadCompass 7) ∧
  decode 0x9004030201 = .command (.setAllAxesPacked 0x04030201)

/-- Every command that a word can carry is read back from its word, with every operand at every value (the last
sentence of rule 72). -/
def Obligations.DecodeInvertsEncode : Prop :=
  ∀ i : Instr, i.wellFormed = true → decode (encode i) = .command i

/-- Every word that decodes is the one word of its command: no two words share a command. -/
def Obligations.EncodeInvertsDecode : Prop :=
  ∀ (w : CommandWord) (i : Instr), decode w = .command i → i.wellFormed = true ∧ encode i = w

/-- The pseudocode of `Decode` (rule 72) on numbers: a word is `op * 2^36 + sel * 2^32 + opd`, and a signed operand of
2^31 or more stands for itself less 2^32. -/
def Obligations.DecodeOnNumbers : Prop :=
  ∀ sel opd : Nat, sel < 16 → opd < 4294967296 →
    let word (op : Nat) : CommandWord := BitVec.ofNat 40 (op * 68719476736 + sel * 4294967296 + opd)
    let signed : Int := if opd < 2147483648 then (opd : Int) else (opd : Int) - 4294967296
    let reads (op : Nat) (i : Instr) : Prop := decode (word op) = .command i
    let isReserved (op : Nat) : Prop := ∃ why, decode (word op) = .reserved why
    (if sel = 0 ∧ opd = 0 then reads 0 .attach else isReserved 0) ∧
    (if sel = 0 ∧ opd = 0 then reads 1 .detach else isReserved 1) ∧
    (∀ index : Fin 14, ∀ pressed : Bool, sel = index.val → opd = pressed.toNat → reads 2 (.setButton index pressed)) ∧
    (¬ (sel ≤ 13 ∧ opd < 2) → isReserved 2) ∧
    (if sel = 0 ∧ opd < 16384 then reads 3 (.setAllButtons (BitVec.ofNat 14 opd)) else isReserved 3) ∧
    (if sel = 0 ∧ opd = 0 then reads 4 .releaseAllButtons else isReserved 4) ∧
    (if sel = 0 then reads 5 (.setAxis .leftX signed)
      else if sel = 1 then reads 5 (.setAxis .leftY signed)
      else if sel = 2 then reads 5 (.setAxis .rightX signed)
      else if sel = 3 then reads 5 (.setAxis .rightY signed)
      else isReserved 5) ∧
    (if sel = 0 then reads 6 (.setTrigger .left signed)
      else if sel = 1 then reads 6 (.setTrigger .right signed)
      else isReserved 6) ∧
    (if sel = 0 then reads 7 (.setDpadAxis .x signed)
      else if sel = 1 then reads 7 (.setDpadAxis .y signed)
      else isReserved 7) ∧
    (if sel = 0 then reads 8 (.setDpadCompass signed) else isReserved 8) ∧
    (if sel = 0 then reads 9 (.setAllAxesPacked (BitVec.ofNat 32 opd)) else isReserved 9) ∧
    (∀ op : Nat, 10 ≤ op → op < 16 → isReserved op)

/-- The opcode map (rule 62): a word has a row's shape and meets its further condition exactly when it decodes to that
row's command, and no word has the shape of two rows. -/
def Obligations.OpcodeTableIsTheDecoder : Prop :=
  (∀ row ∈ opcodeTable, ∀ w : CommandWord,
    (row.fits w = true ∧ row.further w = true) ↔ ∃ i, decode w = .command i ∧ i.mnemonic = row.mnemonic) ∧
  (∀ row ∈ opcodeTable, ∀ row' ∈ opcodeTable, ∀ w : CommandWord,
    row.fits w = true → row'.fits w = true → row = row')

/-- Rule 70 (D9): when the next command of the producer served is a word that falls under one of the cases (a) to (i),
and only then, an idle block's step refuses it as a reserved encoding. -/
def Obligations.ReservedWordsAreRefused : Prop :=
  ∀ (s : State) (p : Nat) (moves : List EnvMove) (w : CommandWord) (rest : List CommandWord) (received : List Status),
    s.activity = .idle → s.moves = .serve p :: moves → s.producers[p]? = some ⟨w :: rest, received⟩ →
    let op := w.toNat / 68719476736
    let sel := w.toNat / 4294967296 % 16
    let opd := w.toNat % 4294967296
    ((∃ why, step s = .refused (.reservedEncoding why)) ↔
      (10 ≤ op ∨
       ((op = 0 ∨ op = 1 ∨ op = 3 ∨ op = 4 ∨ op = 8 ∨ op = 9) ∧ sel ≠ 0) ∨
       ((op = 0 ∨ op = 1 ∨ op = 4) ∧ opd ≠ 0) ∨
       (op = 2 ∧ 14 ≤ sel) ∨
       (op = 2 ∧ 2 ≤ opd) ∨
       (op = 3 ∧ 16384 ≤ opd) ∨
       (op = 5 ∧ 4 ≤ sel) ∨
       (op = 6 ∧ 2 ≤ sel) ∨
       (op = 7 ∧ 2 ≤ sel)))

/-- The textual forms of spec/30_encoding.md section 6 denote their commands: every operation name, every symbolic operand
and every number that has one, in decimal and hexadecimal, every button index in both, the spellings of `pressed`, both ends
of a signed operand, and some operands out of range refused (spacing, digit case and signs: log 28). -/
def Obligations.TextualFormsDenoteCommands : Prop :=
  (Text.parse "attach()" = some .attach ∧ Text.parse "detach()" = some .detach ∧
    Text.parse "releaseAllButtons()" = some .releaseAllButtons) ∧
  (∀ e ∈ ([("0", 0), ("1", 1), ("2", 2), ("3", 3), ("4", 4), ("5", 5), ("6", 6), ("7", 7), ("8", 8), ("9", 9), ("10", 10),
      ("11", 11), ("12", 12), ("13", 13), ("0x0", 0), ("0x1", 1), ("0x2", 2), ("0x3", 3), ("0x4", 4), ("0x5", 5), ("0x6", 6),
      ("0x7", 7), ("0x8", 8), ("0x9", 9), ("0xA", 10), ("0xB", 11), ("0xC", 12), ("0xD", 13)] : List (String × Fin 14)),
    Text.parse ("setButton(" ++ e.1 ++ ", true)") = some (.setButton e.2 true)) ∧
  (∀ e ∈ [("false", false), ("true", true), ("0", false), ("1", true), ("0x0", false), ("0x1", true)],
    Text.parse ("setButton(13, " ++ e.1 ++ ")") = some (.setButton 13 e.2)) ∧
  (∀ e ∈ ([("0", 0), ("16383", 0x3FFF), ("0x3FFF", 0x3FFF), ("0x1234", 0x1234)] : List (String × ButtonSet)),
    Text.parse ("setAllButtons(" ++ e.1 ++ ")") = some (.setAllButtons e.2)) ∧
  (∀ e ∈ [("leftX", StickAxis.leftX), ("leftY", .leftY), ("rightX", .rightX), ("rightY", .rightY), ("0", .leftX),
      ("1", .leftY), ("2", .rightX), ("3", .rightY), ("0x0", .leftX), ("0x1", .leftY), ("0x2", .rightX), ("0x3", .rightY)],
    Text.parse ("setAxis(" ++ e.1 ++ ", -1)") = some (.setAxis e.2 (-1))) ∧
  (∀ e ∈ [("left", TriggerSide.left), ("right", .right), ("0", .left), ("1", .right), ("0x0", .left), ("0x1", .right)],
    Text.parse ("setTrigger(" ++ e.1 ++ ", 0x40)") = some (.setTrigger e.2 64)) ∧
  (∀ e ∈ [("x", DpadAxis.x), ("y", .y), ("0", .x), ("1", .y), ("0x0", .x), ("0x1", .y)],
    Text.parse ("setDpadAxis(" ++ e.1 ++ ", 300)") = some (.setDpadAxis e.2 300)) ∧
  (∀ e ∈ ([("N", 0), ("NE", 1), ("E", 2), ("SE", 3), ("S", 4), ("SW", 5), ("W", 6), ("NW", 7), ("center", 8),
      ("0", 0), ("1", 1), ("2", 2), ("3", 3), ("4", 4), ("5", 5), ("6", 6), ("7", 7), ("8", 8), ("0x0", 0), ("0x1", 1),
      ("0x2", 2), ("0x3", 3), ("0x4", 4), ("0x5", 5), ("0x6", 6), ("0x7", 7), ("0x8", 8), ("-1", -1), ("2147483647", 2147483647), ("-0x80000000", -2147483648)] : List (String × Int)),
    Text.parse ("setDpadCompass(" ++ e.1 ++ ")") = some (.setDpadCompass e.2)) ∧
  (∀ e ∈ ([("0", 0), ("67305985", 0x04030201), ("0x04030201", 0x04030201), ("4294967295", 0xFFFFFFFF),
      ("0xFFFFFFFF", 0xFFFFFFFF)] : List (String × Operand)),
    Text.parse ("setAllAxesPacked(" ++ e.1 ++ ")") = some (.setAllAxesPacked e.2)) ∧
  (∀ text ∈ ["setButton(14, true)", "setButton(0, 2)", "setAllButtons(0x4000)", "setAxis(4, 0)", "setAxis(0x4, 0)",
      "setTrigger(2, 0)", "setDpadAxis(0x2, 0)", "setAllAxesPacked(0x100000000)", "setAllAxesPacked(-1)", "attach(0)"],
    Text.parse text = none)

/-! ## The direction-pad combinator -/

/-- R90: `fromCompass` passes 0..7 through and makes every other integer centre; it is idempotent. -/
def Obligations.FromCompassPassesIndicesThrough : Prop :=
  ∀ d : Int,
    dpadInt (fromCompass d) = (if 0 ≤ d ∧ d ≤ 7 then d else 8) ∧
    fromCompass (dpadInt (fromCompass d)) = fromCompass d

/-- R91: the classification table of `fromAxes`, on the numbers 0..255. -/
def Obligations.FromAxesClassifies : Prop :=
  ∀ x y : Byte,
    (x.toNat = 128 → y.toNat = 128 → fromAxes x y = .center) ∧
    (x.toNat = 128 → y.toNat < 128 → fromAxes x y = .n) ∧
    (x.toNat = 128 → 128 < y.toNat → fromAxes x y = .s) ∧
    (x.toNat < 128 → y.toNat = 128 → fromAxes x y = .w) ∧
    (x.toNat < 128 → y.toNat < 128 → fromAxes x y = .nw) ∧
    (x.toNat < 128 → 128 < y.toNat → fromAxes x y = .sw) ∧
    (128 < x.toNat → y.toNat = 128 → fromAxes x y = .e) ∧
    (128 < x.toNat → y.toNat < 128 → fromAxes x y = .ne) ∧
    (128 < x.toNat → 128 < y.toNat → fromAxes x y = .se)

/-- R92 (a), (f), (g): every code is produced, centre by exactly one pair, a cardinal code only when the other axis is
exactly 128, a diagonal only when neither is. -/
def Obligations.CentreIsExactlyOnePair : Prop :=
  (∀ d : DpadCode, ∃ x y : Byte, fromAxes x y = d) ∧
  ∀ x y : Byte,
    (fromAxes x y = .center ↔ x = 128 ∧ y = 128) ∧
    ((fromAxes x y = .n ∨ fromAxes x y = .s) ↔ x = 128 ∧ y ≠ 128) ∧
    ((fromAxes x y = .e ∨ fromAxes x y = .w) ↔ x ≠ 128 ∧ y = 128) ∧
    ((fromAxes x y = .ne ∨ fromAxes x y = .se ∨ fromAxes x y = .sw ∨ fromAxes x y = .nw) ↔ x ≠ 128 ∧ y ≠ 128)

/-- R93: the nine canonical pairs, and (128, 128) for every other integer. -/
def Obligations.ToAxesIsTheCanonicalTable : Prop :=
  toAxes 0 = (128, 0) ∧ toAxes 1 = (255, 0) ∧ toAxes 2 = (255, 128) ∧ toAxes 3 = (255, 255) ∧
  toAxes 4 = (128, 255) ∧ toAxes 5 = (0, 255) ∧ toAxes 6 = (0, 128) ∧ toAxes 7 = (0, 0) ∧
  toAxes 8 = (128, 128) ∧ ∀ code : Int, code < 0 ∨ 8 < code → toAxes code = (128, 128)

/-- R94: the round-trip law for every integer, `toAxes` injective on the nine codes, and the reverse composition the
identity exactly on the nine canonical pairs. -/
def Obligations.CompassAxesRoundTrip : Prop :=
  (∀ d : Int, 0 ≤ d → d ≤ 8 →
    dpadInt (fromAxes (toAxes (dpadInt (fromCompass d))).1 (toAxes (dpadInt (fromCompass d))).2) = d) ∧
  (∀ d : Int,
    fromAxes (toAxes (dpadInt (fromCompass d))).1 (toAxes (dpadInt (fromCompass d))).2 = fromCompass d) ∧
  (∀ c c' : Int, 0 ≤ c → c ≤ 8 → 0 ≤ c' → c' ≤ 8 → toAxes c = toAxes c' → c = c') ∧
  (∀ x y : Byte, toAxes (dpadInt (fromAxes x y)) = (x, y) ↔ ∃ c : Int, 0 ≤ c ∧ c ≤ 8 ∧ toAxes c = (x, y))

/-! ## The frame encoder -/

/-- R102: offsets 0, 1, 2, 3, 13 of every frame, regardless of the state. -/
def Obligations.FrameConstantBytes : Prop :=
  ∀ c : ControllerState,
    (encodeFrame c)[0] = 2 ∧ (encodeFrame c)[1] = 11 ∧ (encodeFrame c)[2] = 3 ∧ (encodeFrame c)[3] = 1 ∧
    (encodeFrame c)[13] = 3

/-- R105: the six analog bytes are copies. -/
def Obligations.FrameAnalogBytesAreCopies : Prop :=
  ∀ c : ControllerState,
    (encodeFrame c)[4] = c.leftX ∧ (encodeFrame c)[5] = c.leftY ∧ (encodeFrame c)[6] = c.rightX ∧
    (encodeFrame c)[7] = c.rightY ∧ (encodeFrame c)[11] = c.leftTrigger ∧ (encodeFrame c)[12] = c.rightTrigger

/-- R103: byte 8 as a number, with its bounds. -/
def Obligations.FrameByteEightPacksLowButtonsAndDpad : Prop :=
  ∀ c : ControllerState,
    (encodeFrame c)[8].toNat = c.buttons.toNat % 16 * 16 + (dpadBits c.dpad).toNat ∧
    (encodeFrame c)[8].toNat / 16 = c.buttons.toNat % 16 ∧
    (encodeFrame c)[8].toNat % 16 ≤ 8 ∧ (encodeFrame c)[8].toNat ≤ 0xF8

/-- R104 and the table of R109, on the bits of `buttons`: bytes 9 and 10 as numbers, and every bit of bytes 8 to 10: the
low four bits of byte 8 hold the dpad code, the top six of byte 10 are clear, and the other fourteen hold one flag each, so
that every flag is in exactly one bit.  That button index i is bit i is D6 (log 13). -/
def Obligations.ButtonFlagsLandInTheirBits : Prop :=
  ∀ c : ControllerState,
    (encodeFrame c)[9].toNat = c.buttons.toNat / 16 % 256 ∧
    (encodeFrame c)[10].toNat = c.buttons.toNat / 4096 ∧ (encodeFrame c)[10].toNat ≤ 3 ∧
    (∀ k : Nat, k < 4 → (encodeFrame c)[8].getLsbD k = (dpadBits c.dpad).getLsbD k) ∧
    (∀ k : Nat, k < 4 → (encodeFrame c)[8].getLsbD (k + 4) = c.buttons.getLsbD k) ∧
    (∀ k : Nat, k < 8 → (encodeFrame c)[9].getLsbD k = c.buttons.getLsbD (k + 4)) ∧
    (∀ k : Nat, k < 2 → (encodeFrame c)[10].getLsbD k = c.buttons.getLsbD (k + 12)) ∧
    (∀ k : Nat, k < 6 → (encodeFrame c)[10].getLsbD (k + 2) = false)

/-- R107 (b), (c): the transmitted part of the state is read back from its frame, so two snapshots give one frame
exactly when their transmitted parts are equal; the shadow axes do not enter it. -/
def Obligations.FrameReadsBack : Prop :=
  (∀ c : ControllerState, readFrame (encodeFrame c) = c.transmitted) ∧
  (∀ c c' : ControllerState, encodeFrame c = encodeFrame c' ↔
    (c.leftX = c'.leftX ∧ c.leftY = c'.leftY ∧ c.rightX = c'.rightX ∧ c.rightY = c'.rightY ∧
     c.buttons = c'.buttons ∧ c.dpad = c'.dpad ∧ c.leftTrigger = c'.leftTrigger ∧
     c.rightTrigger = c'.rightTrigger))

/-! ## Reset -/

/-- R31: the numbers of `Defaults`. -/
def Obligations.DefaultsAreNeutral : Prop :=
  ControllerState.defaults.leftX = 128 ∧ ControllerState.defaults.leftY = 128 ∧
  ControllerState.defaults.rightX = 128 ∧ ControllerState.defaults.rightY = 128 ∧
  ControllerState.defaults.leftTrigger = 0 ∧ ControllerState.defaults.rightTrigger = 0 ∧
  ControllerState.defaults.buttons = 0 ∧ dpadInt ControllerState.defaults.dpad = 8 ∧
  ControllerState.defaults.dpadXAxis = 128 ∧ ControllerState.defaults.dpadYAxis = 128

/-- The reset state of spec/10_state.md section 6 and spec/70_reset_and_hazards.md section 1: `Defaults`, no sink bound
(D15; log 17), idle, no frame ever handed over. -/
def Obligations.ResetStateIsNeutralAndDetached : Prop :=
  State.reset.ctl = ControllerState.defaults ∧ State.reset.attached = false ∧ State.reset.activity = .idle ∧
  handedOver State.reset = []

/-- A reset at any moment, a hand-over in progress included (D15; logs 7, 17): the block is as after reset, its
`issuer` included (log 8), no frame
is emitted, no status is delivered, the sink's record keeps what it had (an abandoned frame is not entered in it: log 32),
and the run is recorded as cut, with what was in progress (log 31). -/
def Obligations.ResetMoveRestoresTheBlock : Prop :=
  ∀ (s : State) (rest : List EnvMove), s.moves = .reset :: rest →
    ∃ t, step s = .next t ∧ t.ctl = ControllerState.defaults ∧ t.attached = false ∧ t.activity = .idle ∧
      t.issuer = State.reset.issuer ∧ t.sink = s.sink ∧ t.producers = s.producers ∧ t.moves = rest ∧ t.cuts = s.cuts ++ [⟨s.activity, s.issuer⟩]

/-! ## What each command does.  The ten fields and `attached` after it; what is handed to the sink and how the command
ends is `CommandCycle`, for all ten. -/

/-- `attach` always runs: `Defaults`, a sink bound, and the default frame handed over; it does not depend on the fields
before (R110; that the state stays when that frame fails is D24, log 18). -/
def Obligations.AttachResetsAndSendsDefaultFrame : Prop :=
  ∀ s : State, ∃ t, exec .attach s = .next t ∧ t.ctl = ControllerState.defaults ∧ t.attached = true ∧
    handedOver t = s.sink.map HandOver.frame ++
      [#v[0x02, 0x0B, 0x03, 0x01, 0x80, 0x80, 0x80, 0x80, 0x08, 0x00, 0x00, 0x00, 0x00, 0x03]]

/-- `detach` always runs: no sink bound, no frame, status OK to its producer (R111); that the ten fields stay is D14
(log 16). -/
def Obligations.DetachReleasesTheSink : Prop :=
  ∀ s : State, ∃ t, exec .detach s = .next t ∧ t.ctl = s.ctl ∧ t.attached = false ∧ t.activity = .idle ∧
    t.sink = s.sink ∧ t.moves = s.moves ∧
    t.producers = s.producers.modify s.issuer fun p => { p with received := p.received ++ [.ok] }

/-- `setButton` always runs: flag `index` becomes `pressed`, the other thirteen flags and the other fields stay.  That
flag i is bit i is D6 (log 13). -/
def Obligations.SetButtonWritesOneFlag : Prop :=
  ∀ (index : Fin 14) (pressed : Bool) (s : State), ∃ t, exec (.setButton index pressed) s = .next t ∧
    (∀ k : Nat, k < 14 →
      t.ctl.buttons.getLsbD k = if k = index.val then pressed else s.ctl.buttons.getLsbD k) ∧
    t.ctl = { s.ctl with buttons := t.ctl.buttons } ∧ t.attached = s.attached

/-- `setAllButtons` always runs: all fourteen flags are those of the mask, the other fields stay (R116). -/
def Obligations.SetAllButtonsReplacesTheFlags : Prop :=
  ∀ (mask : ButtonSet) (s : State), ∃ t, exec (.setAllButtons mask) s = .next t ∧
    t.ctl = { s.ctl with buttons := mask } ∧ t.attached = s.attached

/-- `releaseAllButtons` always runs: no flag is set, the other fields stay (R117). -/
def Obligations.ReleaseAllButtonsClearsTheFlags : Prop :=
  ∀ s : State, ∃ t, exec .releaseAllButtons s = .next t ∧
    t.ctl = { s.ctl with buttons := 0 } ∧ t.attached = s.attached

/-- `setAxis` always runs: the selected stick field holds the value (R120), or 128 where the value is outside 0..255
(D10, log 14); the other fields stay. -/
def Obligations.SetAxisWritesOneStickField : Prop :=
  ∀ (which : StickAxis) (value : Int) (s : State), ∃ t, exec (.setAxis which value) s = .next t ∧
    t.attached = s.attached ∧
    ∃ v : Byte, (v.toNat : Int) = (if 0 ≤ value ∧ value ≤ 255 then value else 128) ∧
      (which = .leftX → t.ctl = { s.ctl with leftX := v }) ∧
      (which = .leftY → t.ctl = { s.ctl with leftY := v }) ∧
      (which = .rightX → t.ctl = { s.ctl with rightX := v }) ∧
      (which = .rightY → t.ctl = { s.ctl with rightY := v })

/-- `setTrigger` always runs: the selected trigger field holds the value (R121), or 0 where the value is outside 0..255
(D11, log 14); the other fields stay. -/
def Obligations.SetTriggerWritesOneTrigger : Prop :=
  ∀ (which : TriggerSide) (value : Int) (s : State), ∃ t, exec (.setTrigger which value) s = .next t ∧
    t.attached = s.attached ∧
    ∃ v : Byte, (v.toNat : Int) = (if 0 ≤ value ∧ value ≤ 255 then value else 0) ∧
      (which = .left → t.ctl = { s.ctl with leftTrigger := v }) ∧
      (which = .right → t.ctl = { s.ctl with rightTrigger := v })

/-- `setAllAxesPacked` always runs: the four stick fields are the four lanes, least significant first; the other fields
stay (R122). -/
def Obligations.SetAllAxesPackedWritesTheSticks : Prop :=
  ∀ (word : Operand) (s : State), ∃ t, exec (.setAllAxesPacked word) s = .next t ∧
    t.ctl.leftX.toNat = word.toNat % 256 ∧ t.ctl.leftY.toNat = word.toNat / 256 % 256 ∧
    t.ctl.rightX.toNat = word.toNat / 65536 % 256 ∧ t.ctl.rightY.toNat = word.toNat / 16777216 ∧
    t.ctl = { s.ctl with
      leftX := t.ctl.leftX, leftY := t.ctl.leftY, rightX := t.ctl.rightX, rightY := t.ctl.rightY } ∧
    t.attached = s.attached

/-- `setDpadAxis` always runs: the selected shadow axis holds the value, or 128 where the value is outside 0..255, and
`dpad` is `fromAxes` of the pair with the axis just written; the other fields stay (R125). -/
def Obligations.SetDpadAxisDerivesTheDpad : Prop :=
  ∀ (which : DpadAxis) (value : Int) (s : State), ∃ t, exec (.setDpadAxis which value) s = .next t ∧
    t.attached = s.attached ∧
    ∃ v : Byte, (v.toNat : Int) = (if 0 ≤ value ∧ value ≤ 255 then value else 128) ∧
      (which = .x → t.ctl = { s.ctl with dpadXAxis := v, dpad := fromAxes v s.ctl.dpadYAxis }) ∧
      (which = .y → t.ctl = { s.ctl with dpadYAxis := v, dpad := fromAxes s.ctl.dpadXAxis v })

/-- `setDpadCompass` always runs: `dpad` holds the direction 0..7, or 8 for every other integer, and the shadow axes the
canonical pair of that code; the other fields stay (R126). -/
def Obligations.SetDpadCompassBackFillsTheAxes : Prop :=
  ∀ (direction : Int) (s : State), ∃ t, exec (.setDpadCompass direction) s = .next t ∧
    dpadInt t.ctl.dpad = (if 0 ≤ direction ∧ direction ≤ 7 then direction else 8) ∧
    (t.ctl.dpadXAxis, t.ctl.dpadYAxis) = toAxes (dpadInt t.ctl.dpad) ∧
    t.ctl = { s.ctl with dpad := t.ctl.dpad, dpadXAxis := t.ctl.dpadXAxis, dpadYAxis := t.ctl.dpadYAxis } ∧
    t.attached = s.attached

/-! ## The cycle common to all commands -/

/-- The cycle (R81, R83, R85), for every command: `detach` hands over nothing and completes with OK; any other command
with a sink bound hands over one frame, that of the state after its mutation, and completes with the sink's answer if
it is there, else stays busy with the frame; without a sink it hands over nothing and completes with FAIL (this FAIL is
D13, log 15).  Only the issuing producer receives a status (D17, log 22); no program and no earlier hand-over changes, and
no run is cut.  That the command completes in its own step when the answer is the next move, and only then, is the model's
choice (log 3, DESIGN CHOICE); that a busy block holds the command and the frame is DEDUCED (log 24). -/
def Obligations.CommandCycle : Prop :=
  ∀ (i : Instr) (s t : State), exec i s = .next t →
    let completes (st : Status) : Prop :=
      t.activity = .idle ∧
      t.producers = s.producers.modify s.issuer fun p => { p with received := p.received ++ [st] }
    t.issuer = s.issuer ∧ t.cuts = s.cuts ∧
    (i = .detach → completes .ok ∧ t.sink = s.sink ∧ t.moves = s.moves) ∧
    (i ≠ .detach → t.attached = false → completes .fail ∧ t.sink = s.sink ∧ t.moves = s.moves) ∧
    (i ≠ .detach → t.attached = true → ∀ (a : SinkAnswer) (rest : List EnvMove), s.moves = .answer a :: rest →
      completes (if a = .ok then .ok else .fail) ∧ t.sink = s.sink ++ [⟨encodeFrame t.ctl, a⟩] ∧ t.moves = rest) ∧
    (i ≠ .detach → t.attached = true → (∀ (a : SinkAnswer) (rest : List EnvMove), s.moves ≠ .answer a :: rest) →
      t.activity = .transmitting i (encodeFrame t.ctl) ∧ t.producers = s.producers ∧ t.sink = s.sink ∧
      t.moves = s.moves)

/-- An emitting command whose answer is the next move completes; that it does so within its own step is the model's
choice of granularity (log 3, DESIGN CHOICE), what it completes with is R81 and R83.  With a sink bound after the mutation
and the sink's answer the next move, any command but `detach` answers an idle state in which its one frame has been
handed over with that answer, its producer and no other has the status that follows (codes: D17, log 22), and the ten
fields and `attached` are those its mutation leaves. -/
def Obligations.AnsweredCommandsComplete : Prop :=
  ∀ (i : Instr) (s : State) (a : SinkAnswer) (rest : List EnvMove),
    i ≠ .detach → (s.attached = true ∨ i = .attach) → s.moves = .answer a :: rest →
    exec i s = .next { s with
      ctl := (mutate i s).ctl
      attached := true
      activity := .idle
      moves := rest
      sink := s.sink ++ [⟨encodeFrame (mutate i s).ctl, a⟩]
      producers := s.producers.modify s.issuer fun p =>
        { p with received := p.received ++ [if a = .ok then .ok else .fail] } }

/-- R87: every command runs to a next state from every state and keeps `dpad` and the shadow axes in agreement; the
words an idle block serves to no next state are exactly those that decode to no command. -/
def Obligations.EveryCommandIsTotal : Prop :=
  (∀ (i : Instr) (s : State), ∃ t, exec i s = .next t ∧ (s.ctl.consistent → t.ctl.consistent)) ∧
  (∀ (s : State) (p : Nat) (moves : List EnvMove) (w : CommandWord) (rest : List CommandWord)
      (received : List Status),
    s.activity = .idle → s.moves = .serve p :: moves → s.producers[p]? = some ⟨w :: rest, received⟩ →
    ((∃ t, step s = .next t) ↔ ∃ i, decode w = .command i))

/-- The access matrix (R27): a command changes no field that its row leaves blank. -/
def Obligations.CommandsWriteOnlyTheirFields : Prop :=
  ∀ (i : Instr) (s t : State) (f : Field), exec i s = .next t → f ∉ fieldsWritten i → t.field f = s.field f

/-- R48: the same command again leaves the same fields, and hands over the same frame once more. -/
def Obligations.CommandsAreIdempotentOnTheState : Prop :=
  ∀ (i : Instr) (s t u : State), exec i s = .next t → exec i t = .next u →
    u.ctl = t.ctl ∧ u.attached = t.attached ∧
    (i = .detach → u.sink = s.sink) ∧
    (i ≠ .detach → t.attached = true →
      ∀ (a b : SinkAnswer) (rest : List EnvMove), s.moves = .answer a :: .answer b :: rest →
        u.sink = s.sink ++ [⟨encodeFrame t.ctl, a⟩, ⟨encodeFrame t.ctl, b⟩])

/-- R75 (a), R117: `releaseAllButtons()` and `setAllButtons(0)` differ in nothing but the command's name. -/
def Obligations.ReleaseAllIsSetAllZero : Prop :=
  ∀ s t u : State, exec .releaseAllButtons s = .next t → exec (.setAllButtons 0) s = .next u →
    t.ctl = u.ctl ∧ t.attached = u.attached ∧ handedOver t = handedOver u ∧ t.sink = u.sink ∧
    t.producers = u.producers ∧ t.moves = u.moves

/-- R75 (b), R122: from every state, the ten fields after `setAllAxesPacked(word)` are those after the four `setAxis`
commands with the lanes of `word`.  With a sink bound that answers each hand-over at once, the one command hands over one
frame, that of those fields, and the four commands four. -/
def Obligations.PackedAxesAreFourSetAxis : Prop :=
  ∀ (word : Operand) (s s1 s2 s3 s4 t : State),
    exec (.setAxis .leftX (word.toNat % 256 : Nat)) s = .next s1 →
    exec (.setAxis .leftY (word.toNat / 256 % 256 : Nat)) s1 = .next s2 →
    exec (.setAxis .rightX (word.toNat / 65536 % 256 : Nat)) s2 = .next s3 →
    exec (.setAxis .rightY (word.toNat / 16777216 : Nat)) s3 = .next s4 →
    exec (.setAllAxesPacked word) s = .next t →
    t.ctl = s4.ctl ∧ t.attached = s4.attached ∧
    ∀ (a1 a2 a3 a4 : SinkAnswer) (rest : List EnvMove), s.attached = true →
      s.moves = .answer a1 :: .answer a2 :: .answer a3 :: .answer a4 :: rest →
      t.sink = s.sink ++ [⟨encodeFrame s4.ctl, a1⟩] ∧
      s4.sink = s.sink ++
        [⟨encodeFrame s1.ctl, a1⟩, ⟨encodeFrame s2.ctl, a2⟩, ⟨encodeFrame s3.ctl, a3⟩, ⟨encodeFrame s4.ctl, a4⟩]

/-- Pressing and then releasing a button leaves its flag clear and every other flag as it was, so `buttons` is as
before exactly when the flag was clear (C3 of spec/90_conflicts.md; flag i in bit i is D6, log 13). -/
def Obligations.PressThenReleaseClearsTheFlag : Prop :=
  ∀ (index : Fin 14) (s t u : State),
    exec (.setButton index true) s = .next t → exec (.setButton index false) t = .next u →
    u.ctl.buttons.getLsbD index.val = false ∧
    (∀ k : Nat, k ≠ index.val → u.ctl.buttons.getLsbD k = s.ctl.buttons.getLsbD k) ∧
    (u.ctl.buttons = s.ctl.buttons ↔ s.ctl.buttons.getLsbD index.val = false)

/-- R126 with R125 (e): a shadow axis written after a compass command combines with the other axis of that direction's
canonical pair. -/
def Obligations.AxisAfterCompassUsesTheBackFill : Prop :=
  ∀ (d value : Int) (s t u : State), 0 ≤ value → value ≤ 255 →
    exec (.setDpadCompass d) s = .next t →
    (exec (.setDpadAxis .x value) t = .next u →
      u.ctl.dpad = fromAxes (BitVec.ofInt 8 value) (toAxes (dpadInt (fromCompass d))).2) ∧
    (exec (.setDpadAxis .y value) t = .next u →
      u.ctl.dpad = fromAxes (toAxes (dpadInt (fromCompass d))).1 (BitVec.ofInt 8 value))

/-! ## One step -/

/-- A step runs the decoded instruction: an idle block that is presented the next command of producer `p` accepts it and
executes the word's command (R51, R82).  What stands around that execution is the model's: the word is taken from the
producer's program held in State (log 1), the arbiter's choice is a move read from State and used up (log 2), and the issuer
is remembered at acceptance (log 8); all three are DESIGN CHOICE. -/
def Obligations.StepExecutesTheAcceptedCommand : Prop :=
  ∀ (s : State) (p : Nat) (moves : List EnvMove) (w : CommandWord) (rest : List CommandWord) (received : List Status)
    (i : Instr),
    s.activity = .idle → s.moves = .serve p :: moves → s.producers[p]? = some ⟨w :: rest, received⟩ →
    decode w = .command i →
    step s = exec i { s with moves := moves, issuer := p, producers := s.producers.set p ⟨rest, received⟩ }

/-- R52: from acceptance to completion no other command is accepted.  That the arbiter's move is used up, nothing else
changing, is the model's choice (log 5, DESIGN CHOICE): R52 gives only the waiting. -/
def Obligations.BusyBlockAcceptsNothing : Prop :=
  ∀ (s : State) (c : Instr) (frame : Frame) (p : Nat) (moves : List EnvMove),
    s.activity = .transmitting c frame → s.moves = .serve p :: moves →
    step s = .next { s with moves := moves }

/-- R146, R52: while the sink does not answer the command is neither OK nor FAIL: it stays in progress.  R83, R138, R145: an
idle block, a sink bound or not, that is presented no command (no move, `quiet`, or a producer served that has nothing to
issue) keeps its whole state and hands over nothing; that such a serve uses up the arbiter's move is the model's choice
(log 5, DESIGN CHOICE).  That with no move
left the step answers the same state is DEDUCED (log 6: the spec has no such step), and the move `quiet`, which is used up,
is the model's (log 1, DESIGN CHOICE). -/
def Obligations.BlockMovesOnlyWhenPresentedOrAnswered : Prop :=
  (∀ (s : State) (c : Instr) (frame : Frame), s.activity = .transmitting c frame →
    (s.moves = [] → step s = .next s) ∧
    (∀ rest, s.moves = .quiet :: rest → step s = .next { s with moves := rest })) ∧
  (∀ s : State, s.activity = .idle →
    (s.moves = [] → step s = .next s) ∧
    (∀ rest, s.moves = .quiet :: rest → step s = .next { s with moves := rest }) ∧
    (∀ p rest, s.moves = .serve p :: rest →
      (∀ w ws received, s.producers[p]? ≠ some ⟨w :: ws, received⟩) → step s = .next { s with moves := rest }))

/-- The sink's answer to a hand-over in progress completes the command: the frame with its answer is recorded, the issuer
and nobody else receives the status, and the ten fields and `attached` stay as written (R133; the two codes are D17,
log 22). -/
def Obligations.AnswerCompletesTheCommand : Prop :=
  ∀ (s : State) (c : Instr) (frame : Frame) (a : SinkAnswer) (rest : List EnvMove),
    s.activity = .transmitting c frame → s.moves = .answer a :: rest →
    step s = .next { s with
      activity := .idle
      moves := rest
      sink := s.sink ++ [⟨frame, a⟩]
      producers := s.producers.modify s.issuer fun p =>
        { p with received := p.received ++ [if a = .ok then .ok else .fail] } }

/-- The block has no fault of its own (R130, R135): the one fault is the environment's, an answer to no hand-over
(log 4). -/
def Obligations.OnlyAStrayAnswerFaults : Prop :=
  ∀ (s : State) (r : Fault), step s = .fault r ↔
    (r = .strayAnswer ∧ s.activity = .idle ∧ ∃ a rest, s.moves = .answer a :: rest)

/-- The completion codes OK = 0 and FAIL = 1 (D17, log 22). -/
def Obligations.CompletionCodes : Prop :=
  statusCode .ok = 0 ∧ statusCode .fail = 1

/-! ## The whole machine -/

/-- The invariant holds at reset. -/
def Obligations.InvariantHoldsAtReset : Prop := Inv State.reset

/-- Every step keeps the invariant: `dpad` agrees with the shadow axes (R29), a hand-over in progress is of the present
state's frame with a sink bound, and every frame at the sink has its constant bytes, a dpad code 0..8 and clear high
bits in byte 10. -/
def Obligations.StepKeepsTheInvariant : Prop :=
  ∀ s t : State, Inv s → step s = .next t → Inv t

/-- R54: in one step the sink receives nothing, or exactly one whole frame at the end of its stream, and that frame is
`Encode` of the state after the step.  Two of the steps it covers rest on the model: that the sink receives nothing where a
reset abandons a hand-over is log 32 (DESIGN CHOICE: R150 (c), U5 leave it open), and that a frame answered FAIL is entered
whole in the byte stream is the spec's own decision D16 (log 20; what left the transport is outside the spec, U5). -/
def Obligations.FramesAreNeverTorn : Prop :=
  ∀ s t : State, Inv s → step s = .next t →
    (t.sink = s.sink ∧ byteStream t = byteStream s) ∨
    ∃ a, t.sink = s.sink ++ [⟨encodeFrame t.ctl, a⟩] ∧
      byteStream t = byteStream s ++ (encodeFrame t.ctl).toList

/-- The model's view of the receiver, `lastReceived`, the last frame the sink took with OK (log 27, DESIGN CHOICE after U6; what
the real receiver has of a failed frame is outside the spec, U5): a frame taken with OK makes that view the frame of the
present state, whatever failed before (R133, R156), and a failed one leaves the view as it was. -/
def Obligations.AcceptedFrameMakesTheReceiverCurrent : Prop :=
  ∀ (s t : State) (frame : Frame), Inv s → step s = .next t →
    (t.sink = s.sink ++ [⟨frame, .ok⟩] → lastReceived t = some (encodeFrame t.ctl)) ∧
    (t.sink = s.sink ++ [⟨frame, .fail⟩] → lastReceived t = lastReceived s)

/-- R50, R86: in one step at most one producer changes, the issuer; it issues at most its next command, and receives at
most one status at the end of those it has. -/
def Obligations.StepTouchesOnlyTheIssuer : Prop :=
  ∀ s t : State, step s = .next t → t.producers.length = s.producers.length ∧
    ∀ (q : Nat) (before after : Producer), s.producers[q]? = some before → t.producers[q]? = some after →
      (after = before ∨ t.issuer = q) ∧
      (after.program = before.program ∨ ∃ w, before.program = w :: after.program) ∧
      (after.received = before.received ∨ ∃ st, after.received = before.received ++ [st])

/-- No command is dropped or duplicated (R51, R168): every step, a reset included, conserves the number of commands waiting,
in progress, completed, and abandoned by a reset (R150 (c); counting these is the model's record, log 31). -/
def Obligations.CommandsAreConserved : Prop :=
  ∀ s t : State, Inv s → step s = .next t →
    commandsWaiting t + commandsInProgress t + statusesDelivered t + commandsAbandoned t =
      commandsWaiting s + commandsInProgress s + statusesDelivered s + commandsAbandoned s

/-- Only a reset or an accepted `attach` or `detach` binds or releases the sink (R26). -/
def Obligations.OnlySessionCommandsBindTheSink : Prop :=
  ∀ s t : State, step s = .next t → t.attached ≠ s.attached →
    (∃ rest, s.moves = .reset :: rest) ∨
    ∃ p moves w rest received, s.activity = .idle ∧ s.moves = .serve p :: moves ∧
      s.producers[p]? = some ⟨w :: rest, received⟩ ∧
      (decode w = .command .attach ∨ decode w = .command .detach)

/-- While no sink is bound the block hands over nothing until it accepts an `attach` (R83, R111; that other commands
complete without a frame is D13, log 15). -/
def Obligations.DetachedBlockIsSilent : Prop :=
  ∀ s t : State, s.attached = false → s.activity = .idle → step s = .next t → handedOver t ≠ handedOver s →
    ∃ p moves w rest received, s.moves = .serve p :: moves ∧
      s.producers[p]? = some ⟨w :: rest, received⟩ ∧ decode w = .command .attach

/-- R36: what the ten fields hold while no sink is bound cannot be told from outside: two states that differ only in them
step alike, and go on differing in nothing else, and in nothing at all once a sink is bound. -/
def Obligations.DetachedFieldsAreUnobservable : Prop :=
  ∀ s s' : State, sameOutside s s' → sameOutcome sameOutside (step s) (step s')

/-- R88, R133: the sink's answers decide nothing but the statuses: two states that differ only in what the sink answers
step alike, with the same fields, the same frames and the same commands accepted. -/
def Obligations.AnswersNeverReachTheState : Prop :=
  ∀ s s' : State, sameButAnswers s s' → sameOutcome sameButAnswers (step s) (step s')

/-- R51, R54, the source's testable concurrency property in full: any run of a session without `detach` and reset has an
acceptance order, a sequence of commands, each of one of the producers of the run, which for each producer is the part of its program that it has
issued, and the frames handed over in the run are, one for each command in that order, `Encode` of the state right after
the command's mutation. -/
def Obligations.EveryRunHasAnAcceptanceOrder : Prop :=
  ∀ (k : Nat) (s t : State), s.attached = true → s.activity = .idle → updatesOnly s →
    Host.Core.run Sys2Proof.core k s = .next t →
    ∃ order : List (Nat × Instr),
      (∀ e ∈ order, e.1 < s.producers.length) ∧
      (∀ (p : Nat) (before after : Producer), s.producers[p]? = some before → t.producers[p]? = some after →
        ∃ issued, before.program = issued ++ after.program ∧
          issued.map decode = (order.filter fun e => e.1 == p).map fun e => .command e.2) ∧
      handedOver t = handedOver s ++ framesInOrder s (order.map Prod.snd)

/-- R54: "N concurrent callers each issuing M sequential update calls must result in exactly N×M transmitted frames": when
such a run is over, the sink has N×M frames more than at its start. -/
def Obligations.FinishedRunHasOneFrameForEachCommand : Prop :=
  ∀ (k n m : Nat) (s t : State), s.attached = true → s.activity = .idle → updatesOnly s →
    s.producers.length = n → (∀ p ∈ s.producers, p.program.length = m) →
    Host.Core.run Sys2Proof.core k s = .next t → runOver s t →
    t.sink.length = s.sink.length + n * m

/-- R167, R150: a run is cut exactly when a reset comes in it, and what was cut before stays recorded (the record is the
model's, log 31). -/
def Obligations.RunsAreCutExactlyByResets : Prop :=
  ∀ (k : Nat) (s t : State), Host.Core.run Sys2Proof.core k s = .next t →
    s.cuts <+: t.cuts ∧
    (runCut s t ↔ ∃ (j : Nat) (u : State) (rest : List EnvMove),
      j < k ∧ Host.Core.run Sys2Proof.core j s = .next u ∧ u.moves = .reset :: rest)

/-- The end of a run (R167, R150 (c)), told by the model's own record of what resets abandoned and cut (`commandsAbandoned`,
`runCut`: log 31, DESIGN CHOICE).  The first equivalence also spans resets, where the spec's run has ended and the model's
block goes on (log 7, DESIGN CHOICE).  In a run from an idle block every issued command has completed, its status delivered to its producer, exactly when
the block is idle and no reset has abandoned a command since; so an uncut run is over once every command is issued and the
block is idle, and a run whose last hand-over is never answered is not over. -/
def Obligations.IssuedCommandsCompleteUnlessAbandoned : Prop :=
  ∀ (k : Nat) (s t : State), s.activity = .idle → Host.Core.run Sys2Proof.core k s = .next t →
    (everyCommandCompleted s t ↔ t.activity = .idle ∧ commandsAbandoned t = commandsAbandoned s) ∧
    (runOver s t ↔ everyCommandIssued t ∧ t.activity = .idle ∧ ¬ runCut s t)

/-- The integers of the textual syntax (spec/30_encoding.md section 6): every number is read from its decimal digits and
from `0x` and its hexadecimal digits, and its negative from a minus sign before either (log 28). -/
def Obligations.NumeralsAreReadInBothBases : Prop :=
  ∀ n : Nat,
    Text.readNat (Nat.toDigits 10 n) = some n ∧
    Text.readNat ('0' :: 'x' :: Nat.toDigits 16 n) = some n ∧
    Text.readInt (Nat.toDigits 10 n) = some (n : Int) ∧
    Text.readInt ('0' :: 'x' :: Nat.toDigits 16 n) = some (n : Int) ∧
    Text.readInt ('-' :: Nat.toDigits 10 n) = some (-(n : Int)) ∧
    Text.readInt ('-' :: '0' :: 'x' :: Nat.toDigits 16 n) = some (-(n : Int))
end

