-- ==== Sys2Proof/Laws/Decode.lean ====
section
/-! SUPPORT. Command words and their fields: what packing and taking apart do to one another, and the signed operand. -/

namespace Sys2Proof

@[simp] theorem opcodeOf_packWord (op sel : BitVec 4) (opd : Operand) : opcodeOf (packWord op sel opd) = op := by
  apply BitVec.eq_of_getLsbD_eq
  intro i hi
  simp only [opcodeOf, packWord, BitVec.getLsbD_extractLsb', BitVec.getLsbD_append]
  simp [hi, show ¬ 36 + i < 32 by omega, show ¬ 36 + i - 32 < 4 by omega, show 36 + i - 32 - 4 = i by omega]

@[simp] theorem selOf_packWord (op sel : BitVec 4) (opd : Operand) : selOf (packWord op sel opd) = sel := by
  apply BitVec.eq_of_getLsbD_eq
  intro i hi
  simp only [selOf, packWord, BitVec.getLsbD_extractLsb', BitVec.getLsbD_append]
  simp [hi]

@[simp] theorem operandOf_packWord (op sel : BitVec 4) (opd : Operand) :
    operandOf (packWord op sel opd) = opd := by
  apply BitVec.eq_of_getLsbD_eq
  intro i hi
  simp only [operandOf, packWord, BitVec.getLsbD_extractLsb', BitVec.getLsbD_append]
  simp [hi]

/-- A word is the packing of its fields. -/
theorem packWord_fields (w : CommandWord) : packWord (opcodeOf w) (selOf w) (operandOf w) = w := by
  apply BitVec.eq_of_getLsbD_eq
  intro i hi
  simp only [opcodeOf, selOf, operandOf, packWord, BitVec.getLsbD_extractLsb', BitVec.getLsbD_append]
  by_cases h : i < 32
  · simp [h]
  · by_cases h' : i - 32 < 4
    · simp [h, h', show 32 + (i - 32) = i by omega]
    · simp [h, h', show i - 32 - 4 < 4 by omega, show 36 + (i - 32 - 4) = i by omega]

/-- Two words with the same fields are equal. -/
theorem word_ext {w w' : CommandWord} (h : opcodeOf w = opcodeOf w') (h' : selOf w = selOf w')
    (h'' : operandOf w = operandOf w') : w = w' := by
  rw [← packWord_fields w, ← packWord_fields w', h, h', h'']

theorem opcodeOf_toNat (w : CommandWord) : (opcodeOf w).toNat = w.toNat / 68719476736 := by
  have := w.isLt
  simp only [opcodeOf, BitVec.extractLsb'_toNat, Nat.shiftRight_eq_div_pow]
  omega

theorem selOf_toNat (w : CommandWord) : (selOf w).toNat = w.toNat / 4294967296 % 16 := by
  simp [selOf, BitVec.extractLsb'_toNat, Nat.shiftRight_eq_div_pow]

theorem operandOf_toNat (w : CommandWord) : (operandOf w).toNat = w.toNat % 4294967296 := by
  simp [operandOf, BitVec.extractLsb'_toNat]

/-- The signed operand as a number: two's complement (R7, R64). -/
theorem sext32_eq (opd : Operand) :
    sext32 opd = if opd.toNat < 2147483648 then (opd.toNat : Int) else (opd.toNat : Int) - 4294967296 := by
  simp only [sext32, BitVec.toInt]
  split <;> split <;> omega

/-- Every signed operand fits. -/
theorem fitsOperand_sext32 (opd : Operand) : fitsOperand (sext32 opd) = true := by
  have := opd.isLt
  rw [sext32_eq]
  simp only [fitsOperand, Bool.and_eq_true, decide_eq_true_eq]
  split <;> omega

theorem fitsOperand_iff (v : Int) : fitsOperand v = true ↔ -2147483648 ≤ v ∧ v ≤ 2147483647 := by
  simp [fitsOperand]

theorem sext32_operandOfInt {v : Int} (h : fitsOperand v = true) : sext32 (operandOfInt v) = v := by
  rw [fitsOperand_iff] at h
  simp only [sext32, operandOfInt, BitVec.toInt_ofInt, Int.bmod]
  split <;> omega

@[simp] theorem operandOfInt_sext32 (opd : Operand) : operandOfInt (sext32 opd) = opd := by
  simp [sext32, operandOfInt]

@[simp] theorem stickAxisOf_sel (a : StickAxis) : stickAxisOf (stickAxisSel a) = some a := by cases a <;> rfl

@[simp] theorem triggerSideOf_sel (a : TriggerSide) : triggerSideOf (triggerSideSel a) = some a := by
  cases a <;> rfl

@[simp] theorem dpadAxisOf_sel (a : DpadAxis) : dpadAxisOf (dpadAxisSel a) = some a := by cases a <;> rfl

theorem stickAxisSel_of {sel : BitVec 4} {a : StickAxis} (h : stickAxisOf sel = some a) : stickAxisSel a = sel := by
  revert sel a; decide

theorem triggerSideSel_of {sel : BitVec 4} {a : TriggerSide} (h : triggerSideOf sel = some a) :
    triggerSideSel a = sel := by
  revert sel a; decide

theorem dpadAxisSel_of {sel : BitVec 4} {a : DpadAxis} (h : dpadAxisOf sel = some a) : dpadAxisSel a = sel := by
  revert sel a; decide

theorem stickAxisOf_none (sel : BitVec 4) : stickAxisOf sel = none ↔ 4 ≤ sel.toNat := by revert sel; decide

theorem triggerSideOf_none (sel : BitVec 4) : triggerSideOf sel = none ↔ 2 ≤ sel.toNat := by revert sel; decide

theorem dpadAxisOf_none (sel : BitVec 4) : dpadAxisOf sel = none ↔ 2 ≤ sel.toNat := by revert sel; decide

end Sys2Proof
end

