-- ==== Sys2Proof/Laws/Mapper.lean ====
section
/-! SUPPORT. The direction-pad combinator and the frame encoder, each function's facts said once. -/

namespace Sys2Proof.Machine

theorem dpadBits_le (d : DpadCode) : (dpadBits d).toNat ≤ 8 := by cases d <;> decide

theorem dpadBits_injective {d d' : DpadCode} (h : dpadBits d = dpadBits d') : d = d' := by
  cases d <;> cases d' <;> first | rfl | exact absurd h (by decide)

theorem dpadInt_bounds (d : DpadCode) : 0 ≤ dpadInt d ∧ dpadInt d ≤ 8 := by cases d <;> decide

@[simp] theorem fromCompass_dpadInt (d : DpadCode) : fromCompass (dpadInt d) = d := by cases d <;> rfl

theorem fromCompass_outside {d : Int} (h : d < 0 ∨ 7 < d) : fromCompass d = .center := by
  simp only [fromCompass]
  split_ifs <;> first | rfl | omega

/-- The two paths agree: `fromAxes` inverts `toAxes` on every code (R94). -/
@[simp] theorem fromAxes_toAxes (d : DpadCode) : fromAxes (toAxes (dpadInt d)).1 (toAxes (dpadInt d)).2 = d := by
  cases d <;> decide

section
variable (c : ControllerState)

@[simp] theorem encodeFrame_0 : (encodeFrame c)[0] = 2 := rfl
@[simp] theorem encodeFrame_1 : (encodeFrame c)[1] = 11 := rfl
@[simp] theorem encodeFrame_2 : (encodeFrame c)[2] = 3 := rfl
@[simp] theorem encodeFrame_3 : (encodeFrame c)[3] = 1 := rfl
@[simp] theorem encodeFrame_4 : (encodeFrame c)[4] = c.leftX := rfl
@[simp] theorem encodeFrame_5 : (encodeFrame c)[5] = c.leftY := rfl
@[simp] theorem encodeFrame_6 : (encodeFrame c)[6] = c.rightX := rfl
@[simp] theorem encodeFrame_7 : (encodeFrame c)[7] = c.rightY := rfl
@[simp] theorem encodeFrame_8 : (encodeFrame c)[8] = packLowButtons c.buttons c.dpad := rfl
@[simp] theorem encodeFrame_9 : (encodeFrame c)[9] = packMidButtons c.buttons := rfl
@[simp] theorem encodeFrame_10 : (encodeFrame c)[10] = packHighButtons c.buttons := rfl
@[simp] theorem encodeFrame_11 : (encodeFrame c)[11] = c.leftTrigger := rfl
@[simp] theorem encodeFrame_12 : (encodeFrame c)[12] = c.rightTrigger := rfl
@[simp] theorem encodeFrame_13 : (encodeFrame c)[13] = 3 := rfl

end

/-- Bit by bit, byte 8 is the dpad code below and the four lowest flags above (R101, R103). -/
theorem packLowButtons_getLsbD (b : ButtonSet) (d : DpadCode) (k : Nat) :
    (packLowButtons b d).getLsbD k =
      if k < 4 then (dpadBits d).getLsbD k else decide (k < 8) && b.getLsbD (k - 4) := by
  by_cases h8 : k < 8
  · have h : k = 0 ∨ k = 1 ∨ k = 2 ∨ k = 3 ∨ k = 4 ∨ k = 5 ∨ k = 6 ∨ k = 7 := by omega
    rcases h with rfl | rfl | rfl | rfl | rfl | rfl | rfl | rfl <;> simp [packLowButtons]
  · rw [BitVec.getLsbD_of_ge _ _ (by omega), if_neg (by omega)]
    simp [h8]

/-- Byte 9 is the eight flags 4 to 11 (R101, R104). -/
theorem packMidButtons_getLsbD (b : ButtonSet) (k : Nat) :
    (packMidButtons b).getLsbD k = (decide (k < 8) && b.getLsbD (k + 4)) := by
  by_cases h8 : k < 8
  · have h : k = 0 ∨ k = 1 ∨ k = 2 ∨ k = 3 ∨ k = 4 ∨ k = 5 ∨ k = 6 ∨ k = 7 := by omega
    rcases h with rfl | rfl | rfl | rfl | rfl | rfl | rfl | rfl <;> simp [packMidButtons]
  · rw [BitVec.getLsbD_of_ge _ _ (by omega)]
    simp [h8]

/-- Byte 10 is the two flags 12 and 13 (R101, R104). -/
theorem packHighButtons_getLsbD (b : ButtonSet) (k : Nat) :
    (packHighButtons b).getLsbD k = (decide (k < 8) && b.getLsbD (k + 12)) := by
  simp only [packHighButtons, BitVec.getLsbD_setWidth, BitVec.getLsbD_ushiftRight, Nat.add_comm]

theorem packMidButtons_toNat (b : ButtonSet) : (packMidButtons b).toNat = b.toNat / 16 % 256 := by
  simp only [packMidButtons, BitVec.toNat_setWidth, BitVec.toNat_and, BitVec.toNat_ushiftRight,
    Nat.shiftRight_eq_div_pow]
  rw [show (BitVec.toNat (255 : BitVec 14)) = 2 ^ 8 - 1 from rfl, Nat.and_two_pow_sub_one_eq_mod]
  omega

theorem packHighButtons_toNat (b : ButtonSet) : (packHighButtons b).toNat = b.toNat / 4096 := by
  have := b.isLt
  simp only [packHighButtons, BitVec.toNat_setWidth, BitVec.toNat_ushiftRight, Nat.shiftRight_eq_div_pow]
  omega

theorem packLowButtons_eq_append (b : ButtonSet) (d : DpadCode) :
    packLowButtons b d = (b.setWidth 4 ++ dpadBits d : BitVec 8) := by
  apply BitVec.eq_of_getLsbD_eq
  intro k hk
  rw [packLowButtons_getLsbD, BitVec.getLsbD_append]
  by_cases h : k < 4
  · simp [h]
  · simp [h, hk, show k - 4 < 4 by omega]

theorem packLowButtons_toNat (b : ButtonSet) (d : DpadCode) :
    (packLowButtons b d).toNat = b.toNat % 16 * 16 + (dpadBits d).toNat := by
  have h := (dpadBits d).isLt
  rw [packLowButtons_eq_append, BitVec.toNat_append, BitVec.toNat_setWidth, Nat.shiftLeft_eq, Nat.mul_comm,
    ← Nat.two_pow_add_eq_or_of_lt h]

end Sys2Proof.Machine
end

