-- ==== Sys2Proof/Laws/Operands.lean ====
section
/-! SUPPORT. Fail-soft operands, lanes, selected fields and button flags, each operation's facts said once. -/

namespace Sys2Proof.Machine

/-- What the fail-soft replacement stores, as a number (R134). -/
theorem failSoft_toNat (d : Byte) (v : Int) :
    ((failSoft d v).toNat : Int) = if 0 ≤ v ∧ v ≤ 255 then v else d.toNat := by
  simp only [failSoft]
  split
  · simp only [BitVec.toNat_ofInt]
    omega
  · rfl

theorem failSoft_inRange (d : Byte) {v : Int} (h : 0 ≤ v) (h' : v ≤ 255) : failSoft d v = BitVec.ofInt 8 v := by
  simp [failSoft, h, h']

theorem packedLane_toNat (k : Nat) (word : Operand) :
    (packedLane k word).toNat = word.toNat / 2 ^ (8 * k) % 256 := by
  simp [packedLane, BitVec.extractLsb'_toNat, Nat.shiftRight_eq_div_pow]

/-- A stick value in range that is the number of a lane is that lane. -/
theorem stickValue_lane (k : Nat) (word : Operand) :
    stickValue ((word.toNat / 2 ^ (8 * k) % 256 : Nat) : Int) = packedLane k word := by
  apply BitVec.eq_of_toNat_eq
  have h := failSoft_toNat Config.axisOorValue ((word.toNat / 2 ^ (8 * k) % 256 : Nat) : Int)
  rw [if_pos (by omega)] at h
  rw [packedLane_toNat, stickValue]
  exact_mod_cast h

/-- The flag written has the value given, every other flag is as before (R115). -/
theorem writeFlag_getLsbD (index : Fin 14) (pressed : Bool) (b : ButtonSet) {k : Nat} (hk : k < 14) :
    (writeFlag index pressed b).getLsbD k = if k = index.val then pressed else b.getLsbD k := by
  have hm : ∀ i : Fin 14, ∀ j : Fin 14, (flagMask i).getLsbD j.val = decide (j = i) := by decide
  have hc : ∀ i : Fin 14, ∀ j : Fin 14, (Config.buttonMask - flagMask i).getLsbD j.val = !decide (j = i) := by
    decide
  have h1 := hm index ⟨k, hk⟩
  have h2 := hc index ⟨k, hk⟩
  simp only [Fin.ext_iff] at h1 h2
  cases pressed
  · simp only [writeFlag, clearFlag, BitVec.getLsbD_and, h2, Bool.false_eq_true, if_false]
    by_cases h : k = index.val <;> simp [h]
  · simp only [writeFlag, setFlag, BitVec.getLsbD_or, h1, if_true]
    by_cases h : k = index.val <;> simp [h]

section
variable (v : Byte) (c : ControllerState)

@[simp] theorem deriveDpad_dpad : (deriveDpad c).dpad = fromAxes c.dpadXAxis c.dpadYAxis := rfl
@[simp] theorem deriveDpad_x : (deriveDpad c).dpadXAxis = c.dpadXAxis := rfl
@[simp] theorem deriveDpad_y : (deriveDpad c).dpadYAxis = c.dpadYAxis := rfl
@[simp] theorem writeCompass_dpad (d : DpadCode) : (writeCompass d c).dpad = d := rfl
@[simp] theorem writeCompass_x (d : DpadCode) : (writeCompass d c).dpadXAxis = (toAxes (dpadInt d)).1 := rfl
@[simp] theorem writeCompass_y (d : DpadCode) : (writeCompass d c).dpadYAxis = (toAxes (dpadInt d)).2 := rfl

@[simp] theorem writeStick_shadow (a : StickAxis) :
    (writeStick a v c).dpad = c.dpad ∧ (writeStick a v c).dpadXAxis = c.dpadXAxis ∧
      (writeStick a v c).dpadYAxis = c.dpadYAxis := by cases a <;> simp [writeStick]

@[simp] theorem writeTrigger_shadow (a : TriggerSide) :
    (writeTrigger a v c).dpad = c.dpad ∧ (writeTrigger a v c).dpadXAxis = c.dpadXAxis ∧
      (writeTrigger a v c).dpadYAxis = c.dpadYAxis := by cases a <;> simp [writeTrigger]

end

end Sys2Proof.Machine
end

