-- ==== Sys2Proof/Laws/State.lean ====
section
/-! SUPPORT. One lemma per field per update of the state, each true by definition. -/

namespace Sys2Proof.Machine

variable (s : State)

@[simp] theorem State.withCtl_ctl (v : ControllerState) : (s.withCtl v).ctl = v := rfl
@[simp] theorem State.withCtl_attached (v : ControllerState) : (s.withCtl v).attached = s.attached := rfl
@[simp] theorem State.withCtl_activity (v : ControllerState) : (s.withCtl v).activity = s.activity := rfl
@[simp] theorem State.withCtl_issuer (v : ControllerState) : (s.withCtl v).issuer = s.issuer := rfl
@[simp] theorem State.withCtl_producers (v : ControllerState) : (s.withCtl v).producers = s.producers := rfl
@[simp] theorem State.withCtl_moves (v : ControllerState) : (s.withCtl v).moves = s.moves := rfl
@[simp] theorem State.withCtl_sink (v : ControllerState) : (s.withCtl v).sink = s.sink := rfl
@[simp] theorem State.withCtl_cuts (v : ControllerState) : (s.withCtl v).cuts = s.cuts := rfl

@[simp] theorem State.withAttached_ctl (v : Bool) : (s.withAttached v).ctl = s.ctl := rfl
@[simp] theorem State.withAttached_attached (v : Bool) : (s.withAttached v).attached = v := rfl
@[simp] theorem State.withAttached_activity (v : Bool) : (s.withAttached v).activity = s.activity := rfl
@[simp] theorem State.withAttached_issuer (v : Bool) : (s.withAttached v).issuer = s.issuer := rfl
@[simp] theorem State.withAttached_producers (v : Bool) : (s.withAttached v).producers = s.producers := rfl
@[simp] theorem State.withAttached_moves (v : Bool) : (s.withAttached v).moves = s.moves := rfl
@[simp] theorem State.withAttached_sink (v : Bool) : (s.withAttached v).sink = s.sink := rfl
@[simp] theorem State.withAttached_cuts (v : Bool) : (s.withAttached v).cuts = s.cuts := rfl

@[simp] theorem State.withActivity_ctl (v : Activity) : (s.withActivity v).ctl = s.ctl := rfl
@[simp] theorem State.withActivity_attached (v : Activity) : (s.withActivity v).attached = s.attached := rfl
@[simp] theorem State.withActivity_activity (v : Activity) : (s.withActivity v).activity = v := rfl
@[simp] theorem State.withActivity_issuer (v : Activity) : (s.withActivity v).issuer = s.issuer := rfl
@[simp] theorem State.withActivity_producers (v : Activity) : (s.withActivity v).producers = s.producers := rfl
@[simp] theorem State.withActivity_moves (v : Activity) : (s.withActivity v).moves = s.moves := rfl
@[simp] theorem State.withActivity_sink (v : Activity) : (s.withActivity v).sink = s.sink := rfl
@[simp] theorem State.withActivity_cuts (v : Activity) : (s.withActivity v).cuts = s.cuts := rfl

@[simp] theorem State.withIssuer_ctl (v : Nat) : (s.withIssuer v).ctl = s.ctl := rfl
@[simp] theorem State.withIssuer_attached (v : Nat) : (s.withIssuer v).attached = s.attached := rfl
@[simp] theorem State.withIssuer_activity (v : Nat) : (s.withIssuer v).activity = s.activity := rfl
@[simp] theorem State.withIssuer_issuer (v : Nat) : (s.withIssuer v).issuer = v := rfl
@[simp] theorem State.withIssuer_producers (v : Nat) : (s.withIssuer v).producers = s.producers := rfl
@[simp] theorem State.withIssuer_moves (v : Nat) : (s.withIssuer v).moves = s.moves := rfl
@[simp] theorem State.withIssuer_sink (v : Nat) : (s.withIssuer v).sink = s.sink := rfl
@[simp] theorem State.withIssuer_cuts (v : Nat) : (s.withIssuer v).cuts = s.cuts := rfl

@[simp] theorem State.withProducers_ctl (v : List Producer) : (s.withProducers v).ctl = s.ctl := rfl
@[simp] theorem State.withProducers_attached (v : List Producer) : (s.withProducers v).attached = s.attached := rfl
@[simp] theorem State.withProducers_activity (v : List Producer) : (s.withProducers v).activity = s.activity := rfl
@[simp] theorem State.withProducers_issuer (v : List Producer) : (s.withProducers v).issuer = s.issuer := rfl
@[simp] theorem State.withProducers_producers (v : List Producer) : (s.withProducers v).producers = v := rfl
@[simp] theorem State.withProducers_moves (v : List Producer) : (s.withProducers v).moves = s.moves := rfl
@[simp] theorem State.withProducers_sink (v : List Producer) : (s.withProducers v).sink = s.sink := rfl
@[simp] theorem State.withProducers_cuts (v : List Producer) : (s.withProducers v).cuts = s.cuts := rfl

@[simp] theorem State.withMoves_ctl (v : List EnvMove) : (s.withMoves v).ctl = s.ctl := rfl
@[simp] theorem State.withMoves_attached (v : List EnvMove) : (s.withMoves v).attached = s.attached := rfl
@[simp] theorem State.withMoves_activity (v : List EnvMove) : (s.withMoves v).activity = s.activity := rfl
@[simp] theorem State.withMoves_issuer (v : List EnvMove) : (s.withMoves v).issuer = s.issuer := rfl
@[simp] theorem State.withMoves_producers (v : List EnvMove) : (s.withMoves v).producers = s.producers := rfl
@[simp] theorem State.withMoves_moves (v : List EnvMove) : (s.withMoves v).moves = v := rfl
@[simp] theorem State.withMoves_sink (v : List EnvMove) : (s.withMoves v).sink = s.sink := rfl
@[simp] theorem State.withMoves_cuts (v : List EnvMove) : (s.withMoves v).cuts = s.cuts := rfl

@[simp] theorem State.withSink_ctl (v : List HandOver) : (s.withSink v).ctl = s.ctl := rfl
@[simp] theorem State.withSink_attached (v : List HandOver) : (s.withSink v).attached = s.attached := rfl
@[simp] theorem State.withSink_activity (v : List HandOver) : (s.withSink v).activity = s.activity := rfl
@[simp] theorem State.withSink_issuer (v : List HandOver) : (s.withSink v).issuer = s.issuer := rfl
@[simp] theorem State.withSink_producers (v : List HandOver) : (s.withSink v).producers = s.producers := rfl
@[simp] theorem State.withSink_moves (v : List HandOver) : (s.withSink v).moves = s.moves := rfl
@[simp] theorem State.withSink_sink (v : List HandOver) : (s.withSink v).sink = v := rfl
@[simp] theorem State.withSink_cuts (v : List HandOver) : (s.withSink v).cuts = s.cuts := rfl

end Sys2Proof.Machine
end

