-- ==== Sys2Proof/Laws/Ops.lean ====
section
/-! SUPPORT. The shared operations, the ten meanings and the step: what each can do, said once. -/

namespace Sys2Proof.Machine

/-! ## Completion and the hand-over -/

section
variable (st : Status) (s : State)

@[simp] theorem complete_ctl : (complete st s).ctl = s.ctl := rfl
@[simp] theorem complete_attached : (complete st s).attached = s.attached := rfl
@[simp] theorem complete_activity : (complete st s).activity = .idle := rfl
@[simp] theorem complete_issuer : (complete st s).issuer = s.issuer := rfl
@[simp] theorem complete_producers : (complete st s).producers = deliver s.issuer st s.producers := rfl
@[simp] theorem complete_moves : (complete st s).moves = s.moves := rfl
@[simp] theorem complete_sink : (complete st s).sink = s.sink := rfl
@[simp] theorem complete_cuts : (complete st s).cuts = s.cuts := rfl

@[simp] theorem recordHandOver_ctl (f : Frame) (a : SinkAnswer) : (recordHandOver f a s).ctl = s.ctl := rfl
@[simp] theorem recordHandOver_attached (f : Frame) (a : SinkAnswer) :
    (recordHandOver f a s).attached = s.attached := rfl
@[simp] theorem recordHandOver_issuer (f : Frame) (a : SinkAnswer) :
    (recordHandOver f a s).issuer = s.issuer := rfl
@[simp] theorem recordHandOver_producers (f : Frame) (a : SinkAnswer) :
    (recordHandOver f a s).producers = s.producers := rfl
@[simp] theorem recordHandOver_moves (f : Frame) (a : SinkAnswer) : (recordHandOver f a s).moves = s.moves := rfl
@[simp] theorem recordHandOver_sink (f : Frame) (a : SinkAnswer) :
    (recordHandOver f a s).sink = s.sink ++ [⟨f, a⟩] := rfl
@[simp] theorem recordHandOver_cuts (f : Frame) (a : SinkAnswer) : (recordHandOver f a s).cuts = s.cuts := rfl

end

/-- The status that follows from the sink's answer (R81). -/
def statusOf (a : SinkAnswer) : Status := if a = .ok then .ok else .fail

theorem answerHandOver_eq (f : Frame) (a : SinkAnswer) (s : State) :
    answerHandOver f a s = complete (statusOf a) (recordHandOver f a s) := by cases a <;> rfl

/-- A busy block whose sink answers. -/
theorem awaitAnswer_answered {s : State} {c : Instr} {f : Frame} {a : SinkAnswer} {rest : List EnvMove}
    (h : s.activity = .transmitting c f) (h' : s.moves = .answer a :: rest) :
    awaitAnswer s = complete (statusOf a) (recordHandOver f a (s.withMoves rest)) := by
  simp only [awaitAnswer, h, h', answerHandOver_eq]

/-- A busy block whose sink does not answer now. -/
theorem awaitAnswer_unanswered {s : State} (h' : ∀ a rest, s.moves ≠ .answer a :: rest) : awaitAnswer s = s := by
  unfold awaitAnswer
  split
  · next h => exact absurd h (h' _ _)
  · rfl

/-- `SinkWrite` ends answered or in progress: the two ways, with everything they change. -/
theorem sinkWrite_cases (c : Instr) (f : Frame) (s : State) :
    (∃ a rest, s.moves = .answer a :: rest ∧
      sinkWrite c f s =
        complete (statusOf a) (recordHandOver f a ((s.withActivity (.transmitting c f)).withMoves rest))) ∨
    ((∀ a rest, s.moves ≠ .answer a :: rest) ∧ sinkWrite c f s = s.withActivity (.transmitting c f)) := by
  by_cases h : ∃ a rest, s.moves = .answer a :: rest
  · obtain ⟨a, rest, h⟩ := h
    exact .inl ⟨a, rest, h, awaitAnswer_answered rfl h⟩
  · refine .inr ⟨fun a rest ha => h ⟨a, rest, ha⟩, awaitAnswer_unanswered fun a rest ha => h ⟨a, rest, ha⟩⟩

/-- The three ends of a command that emits (R81). -/
theorem emitFrame_cases {c : Instr} {s t : State} (h : emitFrame c s = .next t) :
    (s.attached = false ∧ t = complete .fail s) ∨
    (s.attached = true ∧ ∃ a rest, s.moves = .answer a :: rest ∧
      t = complete (statusOf a)
        (recordHandOver (encodeFrame s.ctl) a
          ((s.withActivity (.transmitting c (encodeFrame s.ctl))).withMoves rest))) ∨
    (s.attached = true ∧ (∀ a rest, s.moves ≠ .answer a :: rest) ∧
      t = s.withActivity (.transmitting c (encodeFrame s.ctl))) := by
  unfold emitFrame at h
  split at h
  · next ha =>
    injection h with h
    subst h
    rcases sinkWrite_cases c (encodeFrame s.ctl) s with ⟨a, rest, hm, e⟩ | ⟨hm, e⟩
    · exact .inr (.inl ⟨ha, a, rest, hm, e⟩)
    · exact .inr (.inr ⟨ha, hm, e⟩)
  · next ha =>
    injection h with h
    exact .inl ⟨by simpa using ha, h.symm⟩

theorem emitFrame_next (c : Instr) (s : State) :
    ∃ t, emitFrame c s = .next t ∧ t.ctl = s.ctl ∧ t.attached = s.attached := by
  unfold emitFrame
  split
  · rcases sinkWrite_cases c (encodeFrame s.ctl) s with ⟨a, rest, _, e⟩ | ⟨_, e⟩ <;>
      exact ⟨_, rfl, by simp [e], by simp [e]⟩
  · exact ⟨_, rfl, rfl, rfl⟩

/-! ## The ten meanings -/

/-- Every command but `detach` is its mutation and then the common end (R81). -/
theorem exec_update {i : Instr} (h : i ≠ .detach) (s : State) : exec i s = emitFrame i (mutate i s) := by
  cases i <;> first | rfl | exact absurd rfl h

theorem exec_detach (s : State) : exec .detach s = .next (complete .ok (mutateDetach s)) := rfl

/-- Every command answers a next state with the fields its mutation leaves. -/
theorem exec_next (i : Instr) (s : State) :
    ∃ t, exec i s = .next t ∧ t.ctl = (mutate i s).ctl ∧ t.attached = (mutate i s).attached := by
  by_cases h : i = .detach
  · subst h
    exact ⟨_, rfl, rfl, rfl⟩
  · rw [exec_update h]
    exact emitFrame_next i _

/-- The fields after a command are those its mutation leaves. -/
theorem exec_fields {i : Instr} {s t : State} (h : exec i s = .next t) :
    t.ctl = (mutate i s).ctl ∧ t.attached = (mutate i s).attached := by
  obtain ⟨u, hu, h1, h2⟩ := exec_next i s
  rw [h] at hu
  injection hu with hu
  exact hu ▸ ⟨h1, h2⟩

/-- A mutation touches the ten fields and `attached` only. -/
theorem mutate_frame (i : Instr) (s : State) :
    (mutate i s).activity = s.activity ∧ (mutate i s).issuer = s.issuer ∧
      (mutate i s).producers = s.producers ∧ (mutate i s).moves = s.moves ∧ (mutate i s).sink = s.sink ∧
      (mutate i s).cuts = s.cuts := by
  cases i <;> exact ⟨rfl, rfl, rfl, rfl, rfl, rfl⟩

@[simp] theorem mutate_activity (i : Instr) (s : State) : (mutate i s).activity = s.activity := (mutate_frame i s).1
@[simp] theorem mutate_issuer (i : Instr) (s : State) : (mutate i s).issuer = s.issuer := (mutate_frame i s).2.1
@[simp] theorem mutate_producers (i : Instr) (s : State) : (mutate i s).producers = s.producers :=
  (mutate_frame i s).2.2.1
@[simp] theorem mutate_moves (i : Instr) (s : State) : (mutate i s).moves = s.moves := (mutate_frame i s).2.2.2.1
@[simp] theorem mutate_sink (i : Instr) (s : State) : (mutate i s).sink = s.sink := (mutate_frame i s).2.2.2.2.1
@[simp] theorem mutate_cuts (i : Instr) (s : State) : (mutate i s).cuts = s.cuts := (mutate_frame i s).2.2.2.2.2

/-- Which commands bind or release the sink (R26). -/
theorem mutate_attached (i : Instr) (s : State) :
    (mutate i s).attached = if i = .attach then true else if i = .detach then false else s.attached := by
  cases i <;> rfl

/-- A mutation keeps `dpad` and the shadow axes in agreement (R29). -/
theorem mutate_consistent (i : Instr) {s : State} (h : s.ctl.consistent) : (mutate i s).ctl.consistent := by
  cases i with
  | setAxis which value => cases which <;> exact h
  | setTrigger which value => cases which <;> exact h
  | setDpadAxis which value => rfl
  | setDpadCompass d => exact (fromAxes_toAxes _).symm
  | attach => rfl
  | detach => exact h
  | setButton index pressed => exact h
  | setAllButtons mask => exact h
  | releaseAllButtons => exact h
  | setAllAxesPacked word => exact h

/-- The four ends of a command, with everything it changes (R81). -/
theorem exec_cases {i : Instr} {s t : State} (h : exec i s = .next t) :
    (i = .detach ∧ t = complete .ok (mutate i s)) ∨
    (i ≠ .detach ∧ (mutate i s).attached = false ∧ t = complete .fail (mutate i s)) ∨
    (i ≠ .detach ∧ (mutate i s).attached = true ∧ ∃ a rest, s.moves = .answer a :: rest ∧
      t = complete (statusOf a)
        (recordHandOver (encodeFrame (mutate i s).ctl) a
          (((mutate i s).withActivity (.transmitting i (encodeFrame (mutate i s).ctl))).withMoves rest))) ∨
    (i ≠ .detach ∧ (mutate i s).attached = true ∧ (∀ a rest, s.moves ≠ .answer a :: rest) ∧
      t = (mutate i s).withActivity (.transmitting i (encodeFrame (mutate i s).ctl))) := by
  by_cases hd : i = .detach
  · subst hd
    injection h with h
    exact .inl ⟨rfl, h.symm⟩
  · rw [exec_update hd] at h
    rcases emitFrame_cases h with ⟨ha, e⟩ | ⟨ha, a, rest, hm, e⟩ | ⟨ha, hm, e⟩
    · exact .inr (.inl ⟨hd, ha, e⟩)
    · exact .inr (.inr (.inl ⟨hd, ha, a, rest, by simpa using hm, e⟩))
    · exact .inr (.inr (.inr ⟨hd, ha, by simpa using hm, e⟩))

/-- A command cuts no run. -/
theorem exec_cuts {i : Instr} {s t : State} (h : exec i s = .next t) : t.cuts = s.cuts := by
  rcases exec_cases h with ⟨_, e⟩ | ⟨_, _, e⟩ | ⟨_, _, a, rest, _, e⟩ | ⟨_, _, _, e⟩ <;> simp [e]

/-! ## Acceptance -/

/-- The state in which the block has accepted the next command of producer `p`. -/
def accepted (p : Nat) (rest : List CommandWord) (received : List Status) (s : State) : State :=
  (s.withProducers (s.producers.set p ⟨rest, received⟩)).withIssuer p

section
variable (p : Nat) (rest : List CommandWord) (received : List Status) (s : State)

@[simp] theorem accepted_ctl : (accepted p rest received s).ctl = s.ctl := rfl
@[simp] theorem accepted_attached : (accepted p rest received s).attached = s.attached := rfl
@[simp] theorem accepted_activity : (accepted p rest received s).activity = s.activity := rfl
@[simp] theorem accepted_issuer : (accepted p rest received s).issuer = p := rfl
@[simp] theorem accepted_producers :
    (accepted p rest received s).producers = s.producers.set p ⟨rest, received⟩ := rfl
@[simp] theorem accepted_moves : (accepted p rest received s).moves = s.moves := rfl
@[simp] theorem accepted_sink : (accepted p rest received s).sink = s.sink := rfl
@[simp] theorem accepted_cuts : (accepted p rest received s).cuts = s.cuts := rfl

end

theorem accept_some {p : Nat} {s : State} {w : CommandWord} {rest : List CommandWord} {received : List Status}
    (h : s.producers[p]? = some ⟨w :: rest, received⟩) :
    accept p s = some (w, accepted p rest received s) := by
  simp [accept, h, accepted]

theorem accept_cases (p : Nat) (s : State) :
    accept p s = none ∨ ∃ w rest received, s.producers[p]? = some ⟨w :: rest, received⟩ ∧
      accept p s = some (w, accepted p rest received s) := by
  rcases h : s.producers[p]? with _ | ⟨_ | ⟨w, rest⟩, received⟩
  · exact .inl (by simp [accept, h])
  · exact .inl (by simp [accept, h])
  · exact .inr ⟨w, rest, received, rfl, accept_some h⟩

/-! ## The step -/

/-- An idle block that serves a waiting producer. -/
theorem step_serve {s : State} {p : Nat} {moves : List EnvMove} {w : CommandWord} {rest : List CommandWord}
    {received : List Status} (hi : s.activity = .idle) (hm : s.moves = .serve p :: moves)
    (hp : s.producers[p]? = some ⟨w :: rest, received⟩) :
    step s = match decode w with
      | .command i => exec i (accepted p rest received (s.withMoves moves))
      | .reserved why => .refused (.reservedEncoding why) := by
  cases hd : decode w <;>
    simp only [step, hm, hi, stepServe, accept_some (s := s.withMoves moves) hp, hd]

/-- All that a step to a next state can be. -/
theorem step_cases {s t : State} (h : step s = .next t) :
    (s.moves = [] ∧ t = s) ∨
    (∃ rest, s.moves = .quiet :: rest ∧ t = s.withMoves rest) ∨
    (∃ rest, s.moves = .reset :: rest ∧ t = resetBlock (s.withMoves rest)) ∨
    (∃ a rest c f, s.moves = .answer a :: rest ∧ s.activity = .transmitting c f ∧
      t = complete (statusOf a) (recordHandOver f a (s.withMoves rest))) ∨
    (∃ p rest, s.moves = .serve p :: rest ∧ t = s.withMoves rest) ∨
    (∃ p moves w rest received i, s.moves = .serve p :: moves ∧ s.activity = .idle ∧
      s.producers[p]? = some ⟨w :: rest, received⟩ ∧ decode w = .command i ∧
      exec i (accepted p rest received (s.withMoves moves)) = .next t) := by
  rcases hm : s.moves with _ | ⟨m, rest⟩
  · simp only [step, hm] at h
    injection h with h
    exact .inl ⟨rfl, h.symm⟩
  · cases m with
    | quiet =>
      simp only [step, hm] at h
      injection h with h
      exact .inr (.inl ⟨rest, rfl, h.symm⟩)
    | reset =>
      simp only [step, hm] at h
      injection h with h
      exact .inr (.inr (.inl ⟨rest, rfl, h.symm⟩))
    | answer a =>
      rcases ha : s.activity with _ | ⟨c, f⟩
      · simp [step, hm, ha] at h
      · simp only [step, hm, ha] at h
        injection h with h
        rw [awaitAnswer_answered ha hm] at h
        exact .inr (.inr (.inr (.inl ⟨a, rest, c, f, rfl, rfl, h.symm⟩)))
    | serve p =>
      rcases ha : s.activity with _ | ⟨c, f⟩
      · rcases accept_cases p (s.withMoves rest) with hn | ⟨w, ws, received, hp, _⟩
        · simp only [step, hm, ha, stepServe, hn] at h
          injection h with h
          exact .inr (.inr (.inr (.inr (.inl ⟨p, rest, rfl, h.symm⟩))))
        · rw [step_serve ha hm hp] at h
          rcases hd : decode w with i | why
          · rw [hd] at h
            exact .inr (.inr (.inr (.inr (.inr ⟨p, rest, w, ws, received, i, rfl, rfl, hp, hd, h⟩))))
          · simp [hd] at h
      · simp only [step, hm, ha] at h
        injection h with h
        exact .inr (.inr (.inr (.inr (.inl ⟨p, rest, rfl, h.symm⟩))))

/-- Only a reset cuts a run. -/
theorem step_cuts {s t : State} (h : step s = .next t) :
    (∃ rest, s.moves = .reset :: rest ∧ t.cuts = s.cuts ++ [⟨s.activity, s.issuer⟩]) ∨
    ((∀ rest, s.moves ≠ .reset :: rest) ∧ t.cuts = s.cuts) := by
  rcases step_cases h with ⟨hm, rfl⟩ | ⟨rest, hm, rfl⟩ | ⟨rest, hm, rfl⟩ | ⟨a, rest, c, f, hm, _, rfl⟩ |
    ⟨p, rest, hm, rfl⟩ | ⟨p, moves, w, rest, received, i, hm, _, _, _, he⟩
  case inr.inr.inl => exact .inl ⟨rest, hm, rfl⟩
  all_goals refine .inr ⟨by simp [hm], ?_⟩
  case inr.inr.inr.inr.inr => simpa using exec_cuts he
  all_goals simp

/-- A run of k + 1 steps is one step and then k. -/
theorem core_run_succ (k : Nat) (s : State) :
    Host.Core.run Sys2Proof.core (k + 1) s =
      match step s with
      | .next s' => Host.Core.run Sys2Proof.core k s'
      | .fault r => .fault r
      | .refused r => .refused r := by
  rcases h : step s with t | r | r <;> simp [Host.Core.run, Sys2Proof.core, h]

/-! ## Reset -/

section
variable (s : State)

@[simp] theorem resetBlock_ctl : (resetBlock s).ctl = ControllerState.defaults := rfl
@[simp] theorem resetBlock_attached : (resetBlock s).attached = false := rfl
@[simp] theorem resetBlock_activity : (resetBlock s).activity = .idle := rfl
@[simp] theorem resetBlock_issuer : (resetBlock s).issuer = 0 := rfl
@[simp] theorem resetBlock_producers : (resetBlock s).producers = s.producers := rfl
@[simp] theorem resetBlock_moves : (resetBlock s).moves = s.moves := rfl
@[simp] theorem resetBlock_sink : (resetBlock s).sink = s.sink := rfl
@[simp] theorem resetBlock_cuts : (resetBlock s).cuts = s.cuts ++ [⟨s.activity, s.issuer⟩] := rfl

end

/-! ## Statuses and counts -/

@[simp] theorem deliver_length (p : Nat) (st : Status) (ps : List Producer) :
    (deliver p st ps).length = ps.length := by simp [deliver]

/-- Delivery leaves every program alone. -/
theorem deliver_programs (p : Nat) (st : Status) (ps : List Producer) :
    (deliver p st ps).map Producer.program = ps.map Producer.program := by
  unfold deliver
  induction ps generalizing p with
  | nil => simp
  | cons q qs ih => cases p with
    | zero => rfl
    | succ p => simp [ih p]

/-- A delivery to an existing producer adds one status. -/
theorem deliver_received {p : Nat} (st : Status) {ps : List Producer} (h : p < ps.length) :
    ((deliver p st ps).map fun q => q.received.length).sum = (ps.map fun q => q.received.length).sum + 1 := by
  unfold deliver
  induction ps generalizing p with
  | nil => simp at h
  | cons q qs ih =>
    cases p with
    | zero => simp [Producer.receive]; omega
    | succ p =>
      have := ih (p := p) (by simpa using h)
      simp only [List.modify_succ_cons, List.map_cons, List.sum_cons, this]
      omega

/-- Acceptance takes one command off the programs. -/
theorem set_waiting {p : Nat} {ps : List Producer} {w : CommandWord} {rest : List CommandWord}
    {received : List Status} (h : ps[p]? = some ⟨w :: rest, received⟩) :
    ((ps.set p ⟨rest, received⟩).map fun q => q.program.length).sum + 1 = (ps.map fun q => q.program.length).sum ∧
    ((ps.set p ⟨rest, received⟩).map fun q => q.received.length).sum = (ps.map fun q => q.received.length).sum := by
  induction ps generalizing p with
  | nil => simp at h
  | cons q qs ih =>
    cases p with
    | zero =>
      simp only [List.getElem?_cons_zero, Option.some.injEq] at h
      subst h
      simp
      omega
    | succ p =>
      have := ih (p := p) (by simpa using h)
      simp only [List.set_cons_succ, List.map_cons, List.sum_cons]
      omega

end Sys2Proof.Machine
end

