-- ==== Sys2Proof/Laws/PerInstr.lean ====
section
/-! SUPPORT. A family of lemmas over the constructors of Instr: the three fields of a command's word (R61, R62). -/

namespace Sys2Proof.Laws.WordFields

/-- The fields of the command's word are the command's opcode, selector and operand. -/
def Statement (i : Instr) : Prop :=
  opcodeOf (encode i) = i.opcode ∧ selOf (encode i) = i.sel ∧ operandOf (encode i) = i.operand

theorem attach : Statement .attach := by simp [Statement, encode]
theorem detach : Statement .detach := by simp [Statement, encode]
theorem setButton (index : Fin 14) (pressed : Bool) : Statement (.setButton index pressed) := by
  simp [Statement, encode]
theorem setAllButtons (mask : ButtonSet) : Statement (.setAllButtons mask) := by simp [Statement, encode]
theorem releaseAllButtons : Statement .releaseAllButtons := by simp [Statement, encode]
theorem setAxis (which : StickAxis) (value : Int) : Statement (.setAxis which value) := by
  simp [Statement, encode]
theorem setTrigger (which : TriggerSide) (value : Int) : Statement (.setTrigger which value) := by
  simp [Statement, encode]
theorem setDpadAxis (which : DpadAxis) (value : Int) : Statement (.setDpadAxis which value) := by
  simp [Statement, encode]
theorem setDpadCompass (direction : Int) : Statement (.setDpadCompass direction) := by
  simp [Statement, encode]
theorem setAllAxesPacked (word : Operand) : Statement (.setAllAxesPacked word) := by simp [Statement, encode]

end Sys2Proof.Laws.WordFields
end

