-- ==== Sys2Proof/Laws/Text.lean ====
section
/-! SUPPORT. The readers of the textual syntax: digits and numbers. -/

namespace Sys2Proof.Machine.Text

/-- Digits are read from left to right, the first part's value carried into the second. -/
theorem readDigits_append (digit : Char → Option Nat) (base : Nat) (cs ds : List Char) (n : Nat) :
    readDigits digit base n (cs ++ ds) = (readDigits digit base n cs).bind fun m => readDigits digit base m ds := by
  induction cs generalizing n with
  | nil => rfl
  | cons c cs ih =>
    simp only [List.cons_append, readDigits]
    cases digit c <;> simp [ih]

theorem decimalDigit_digitChar : ∀ k < 10, decimalDigit (Nat.digitChar k) = some k := by decide

theorem hexDigit_digitChar : ∀ k < 16, hexDigit (Nat.digitChar k) = some k := by decide

/-- A symbol of the table is never read as a number. -/
theorem symbolOr_symbol {α : Type} {table : List (String × α)} {number : List Char → Option α} {cs : List Char} {a : α}
    (h : symbol table cs = some a) : symbolOr table number cs = some a := by
  simp [symbolOr, h]

theorem symbolOr_number {α : Type} {table : List (String × α)} {number : List Char → Option α} {cs : List Char}
    (h : symbol table cs = none) : symbolOr table number cs = number cs := by
  simp [symbolOr, h]

end Sys2Proof.Machine.Text
end

