-- ==== Sys2Proof/Tests/Slice0.lean ====
section
/-! SUPPORT. Tests against the spec's own tables and worked examples (spec/95_test_vectors.md, the Example lines of the
command rules), the smoke test of WellFormed, and for each statement with hypotheses a witness that meets them. -/

namespace Sys2Proof.Tests

open Sys2Proof Sys2Proof.Machine

/-! ## WellFormed refuses an operand that no word can carry (R64) -/

theorem test_setAxis_value_too_large : (Instr.setAxis .leftX 2147483648).wellFormed = false := by decide
theorem test_setTrigger_value_too_small : (Instr.setTrigger .right (-2147483649)).wellFormed = false := by decide
theorem test_setDpadAxis_value_too_large : (Instr.setDpadAxis .y 4294967295).wellFormed = false := by decide
theorem test_setDpadCompass_direction_too_small : (Instr.setDpadCompass (-2147483649)).wellFormed = false := by
  decide
theorem test_bounds_are_well_formed :
    (Instr.setAxis .leftX 2147483647).wellFormed = true ∧
    (Instr.setDpadCompass (-2147483648)).wellFormed = true := by decide

/-! ## Decode: words written out from the fields of R61 (opcode, selector, operand), spec/95 part 2.5 -/

theorem test_decode_attach : decode (0b0000_0000_00000000000000000000000000000000#40) = .command .attach := by decide
theorem test_decode_detach : decode (0b0001_0000_00000000000000000000000000000000#40) = .command .detach := by decide
theorem test_decode_setButton :
    decode (0b0010_1101_00000000000000000000000000000001#40) = .command (.setButton 13 true) := by decide
theorem test_decode_setButton_release :
    decode (0b0010_0100_00000000000000000000000000000000#40) = .command (.setButton 4 false) := by decide
theorem test_decode_setAllButtons :
    decode (0b0011_0000_00000000000000000001001000110100#40) = .command (.setAllButtons 0x1234) := by decide
theorem test_decode_releaseAllButtons :
    decode (0b0100_0000_00000000000000000000000000000000#40) = .command .releaseAllButtons := by decide
theorem test_decode_setAxis :
    decode (0b0101_0010_00000000000000000000000100000000#40) = .command (.setAxis .rightX 256) := by decide
theorem test_decode_setAxis_most_negative : decode 0x5080000000 = .command (.setAxis .leftX (-2147483648)) := by
  decide
theorem test_decode_setTrigger :
    decode (0b0110_0001_00000000000000000000000001000000#40) = .command (.setTrigger .right 64) := by decide
theorem test_decode_setDpadAxis :
    decode (0b0111_0001_11111111111111111111111111111111#40) = .command (.setDpadAxis .y (-1)) := by decide
theorem test_decode_setDpadCompass :
    decode (0b1000_0000_00000000000000000000000000000111#40) = .command (.setDpadCompass 7) := by decide
theorem test_decode_setAllAxesPacked :
    decode (0b1001_0000_00000100000000110000001000000001#40) = .command (.setAllAxesPacked 0x04030201) := by decide

/-- The reserved words of spec/95 part 2.5, each with its case of R70. -/
theorem test_decode_reserved :
    decode 0x0000000001 = .reserved .operandNotZero ∧ decode 0x0100000000 = .reserved .selNotZero ∧
    decode 0x2E00000001 = .reserved .buttonIndex ∧ decode 0x2F00000000 = .reserved .buttonIndex ∧
    decode 0x2000000002 = .reserved .pressedBits ∧ decode 0x3000004000 = .reserved .maskBits ∧
    decode 0x3100000000 = .reserved .selNotZero ∧ decode 0x4000000001 = .reserved .operandNotZero ∧
    decode 0x5400000080 = .reserved .stickSel ∧ decode 0x6200000000 = .reserved .triggerSel ∧
    decode 0x7200000000 = .reserved .dpadAxisSel ∧ decode 0x8100000000 = .reserved .selNotZero ∧
    decode 0x9100000000 = .reserved .selNotZero ∧ decode 0xA000000000 = .reserved .opcode ∧
    decode 0xF0FFFFFFFF = .reserved .opcode := by decide

theorem test_encode :
    encode (.setButton 13 true) = 0x2D00000001 ∧ encode (.setAxis .leftX (-1)) = 0x50FFFFFFFF ∧
    encode (.setDpadAxis .x 300) = 0x700000012C ∧ encode (.setAllButtons 0x3FFF) = 0x3000003FFF := by decide

theorem test_decodeTableWord :
    decodeTableWord 40 0x2D00000001 = some (.setButton 13 true) ∧ decodeTableWord 40 0x2E00000001 = none := by
  decide

/-! ## Text (R74) -/

theorem test_assemble :
    Text.assemble "setDpadAxis(y, 300)" = some 0x710000012C ∧ Text.assemble "setDpadCompass(E)" = some 0x8000000002 ∧
    Text.assemble "setAllAxesPacked(0xFF00807F)" = some 0x90FF00807F := by decide
/-- R74: a selector number in either base. -/
theorem test_parse_selector_number :
    Text.parse "setAxis(0x2, 1)" = some (.setAxis .rightX 1) ∧ Text.parse "setButton(3, 0x1)" = some (.setButton 3 true) := by
  decide
theorem test_parse_refuses_bad_operands :
    Text.parse "setButton(14, 1)" = none ∧ Text.parse "setAllButtons(0x4000)" = none ∧
    Text.parse "attach(1)" = none ∧ Text.parse "setAxis(x, 1)" = none := by decide

/-! ## The combinator and the encoder (spec/95 parts 2.2, 2.3, 2.4) -/

theorem test_fromAxes_source_literals :
    fromAxes 128 128 = .center ∧ fromAxes 128 0 = .n ∧ fromAxes 255 128 = .e ∧ fromAxes 0 255 = .sw := by decide
theorem test_fromAxes_next_to_centre :
    fromAxes 127 128 = .w ∧ fromAxes 129 128 = .e ∧ fromAxes 128 127 = .n ∧ fromAxes 128 129 = .s ∧
    fromAxes 127 127 = .nw ∧ fromAxes 129 129 = .se ∧ fromAxes 127 129 = .sw ∧ fromAxes 129 127 = .ne := by decide
theorem test_fromCompass_outside :
    fromCompass 8 = .center ∧ fromCompass (-1) = .center ∧ fromCompass 2147483647 = .center := by decide
theorem test_toAxes : toAxes 5 = (0, 255) ∧ toAxes 15 = (128, 128) ∧ toAxes (-7) = (128, 128) := by decide

/-- E2 of part 2.4. -/
theorem test_encodeFrame_E2 :
    encodeFrame ⟨0, 255, 1, 254, 255, 127, 0x3FFF, .n, 128, 0⟩ =
      #v[0x02, 0x0B, 0x03, 0x01, 0x00, 0xFF, 0x01, 0xFE, 0xF0, 0xFF, 0x03, 0xFF, 0x7F, 0x03] := by decide
/-- E3 of part 2.4. -/
theorem test_encodeFrame_E3 :
    encodeFrame ⟨128, 128, 128, 128, 0, 0, 0x1234, .sw, 0, 255⟩ =
      #v[0x02, 0x0B, 0x03, 0x01, 0x80, 0x80, 0x80, 0x80, 0x45, 0x23, 0x01, 0x00, 0x00, 0x03] := by decide
/-- E4 of part 2.4, read back. -/
theorem test_readFrame_E4 :
    (readFrame #v[0x02, 0x0B, 0x03, 0x01, 0x80, 0x80, 0x80, 0x80, 0x18, 0x00, 0x02, 0x00, 0x00, 0x03]).buttons =
      0x2001 := by decide

/-! ## The commands, one step each -/

/-- `Defaults` with a sink bound, one producer that has nothing more to issue, and a sink about to answer `a`. -/
def session (a : SinkAnswer) : State :=
  { State.reset with attached := true, producers := [⟨[], []⟩], moves := [.answer a] }

/-- The ten fields after a command, and the frames the sink took with OK. -/
def outcome (i : Instr) (s : State) : Option (ControllerState × List Frame) :=
  (nextState? (exec i s)).map fun t => (t.ctl, (t.sink.filter fun h => h.answer == .ok).map HandOver.frame)

/-- The frame the only answered hand-over carried. -/
def frameOf (i : Instr) (s : State) : Option (List Frame) :=
  (nextState? (exec i s)).map fun t => t.sink.map HandOver.frame

/-- R110 example. -/
theorem test_attach :
    outcome .attach { session .ok with
      attached := false, ctl := { ControllerState.defaults with buttons := 0x3FFF, leftX := 0 } } =
      some (ControllerState.defaults,
        [#v[0x02, 0x0B, 0x03, 0x01, 0x80, 0x80, 0x80, 0x80, 0x08, 0x00, 0x00, 0x00, 0x00, 0x03]]) := by decide
/-- D24: the state stays when the default frame fails, and the producer is told. -/
theorem test_attach_fails :
    (nextState? (exec .attach (session .fail))).map (fun t => (t.attached, t.producers)) =
      some (true, [⟨[], [.fail]⟩]) := by decide
/-- R111 example. -/
theorem test_detach :
    (nextState? (exec .detach { session .ok with ctl := { ControllerState.defaults with buttons := 1 } })).map
      (fun t => (t.attached, t.ctl.buttons, t.sink.length, t.producers)) =
      some (false, 1, 0, [⟨[], [.ok]⟩]) := by decide
/-- R115 example. -/
theorem test_setButton :
    frameOf (.setButton 0 true) (session .ok) =
      some [#v[0x02, 0x0B, 0x03, 0x01, 0x80, 0x80, 0x80, 0x80, 0x18, 0x00, 0x00, 0x00, 0x00, 0x03]] := by decide
/-- Part 2.7, row 5: 0x2011 with button 0 released is 0x2010. -/
theorem test_setButton_release :
    (nextState? (exec (.setButton 0 false)
      { session .ok with ctl := { ControllerState.defaults with buttons := 0x2011 } })).map (·.ctl.buttons) =
      some 0x2010 := by decide
/-- Part 2.7: `48 23 01`. -/
theorem test_setAllButtons :
    (frameOf (.setAllButtons 0x1234) (session .ok)).map (List.map fun f => (f[8], f[9], f[10])) =
      some [(0x48, 0x23, 0x01)] := by decide
/-- R117 example. -/
theorem test_releaseAllButtons :
    (frameOf .releaseAllButtons { session .ok with
      ctl := { ControllerState.defaults with buttons := 0x3FFF, dpad := .e, dpadXAxis := 255 } }).map
      (List.map fun f => (f[8], f[9], f[10])) = some [(0x02, 0x00, 0x00)] := by decide
/-- R120 example. -/
theorem test_setAxis :
    frameOf (.setAxis .leftX 0) (session .ok) =
      some [#v[0x02, 0x0B, 0x03, 0x01, 0x00, 0x80, 0x80, 0x80, 0x08, 0x00, 0x00, 0x00, 0x00, 0x03]] := by decide
/-- R120 (a): 256 is out of range and stores 128, not 0. -/
theorem test_setAxis_out_of_range :
    (nextState? (exec (.setAxis .rightX 256)
      { session .ok with ctl := { ControllerState.defaults with rightX := 7 } })).map (·.ctl.rightX) =
      some 128 := by decide
/-- R121 example. -/
theorem test_setTrigger :
    frameOf (.setTrigger .right 64) (session .ok) =
      some [#v[0x02, 0x0B, 0x03, 0x01, 0x80, 0x80, 0x80, 0x80, 0x08, 0x00, 0x00, 0x00, 0x40, 0x03]] := by decide
/-- Part 2.8: `setTrigger(left, 300)` stores 0. -/
theorem test_setTrigger_out_of_range :
    (nextState? (exec (.setTrigger .left 300)
      { session .ok with ctl := { ControllerState.defaults with leftTrigger := 255 } })).map
      (·.ctl.leftTrigger) = some 0 := by decide
/-- R122 example. -/
theorem test_setAllAxesPacked :
    frameOf (.setAllAxesPacked 0x04030201) (session .ok) =
      some [#v[0x02, 0x0B, 0x03, 0x01, 0x01, 0x02, 0x03, 0x04, 0x08, 0x00, 0x00, 0x00, 0x00, 0x03]] := by decide
/-- R125 example. -/
theorem test_setDpadAxis :
    frameOf (.setDpadAxis .x 0) (session .ok) =
      some [#v[0x02, 0x0B, 0x03, 0x01, 0x80, 0x80, 0x80, 0x80, 0x06, 0x00, 0x00, 0x00, 0x00, 0x03]] := by decide
/-- R125 (b): an out-of-range y centres y only. -/
theorem test_setDpadAxis_out_of_range :
    (nextState? (exec (.setDpadAxis .y 300)
      { session .ok with ctl := { ControllerState.defaults with dpadXAxis := 0, dpadYAxis := 9, dpad := .nw } })).map
      (fun t => (t.ctl.dpadYAxis, t.ctl.dpad)) = some (128, .w) := by decide
/-- R126 example. -/
theorem test_setDpadCompass :
    (nextState? (exec (.setDpadCompass 2) (session .ok))).map
      (fun t => (t.ctl.dpad, t.ctl.dpadXAxis, t.ctl.dpadYAxis)) = some (.e, 255, 128) := by decide
/-- R126 (a). -/
theorem test_setDpadCompass_outside :
    (nextState? (exec (.setDpadCompass 9)
      { session .ok with ctl := { ControllerState.defaults with dpadXAxis := 0, dpad := .w } })).map
      (fun t => (t.ctl.dpad, t.ctl.dpadXAxis, t.ctl.dpadYAxis)) = some (.center, 128, 128) := by decide

/-! ## One step -/

/-- An idle session whose producer 0 is about to be served `w`. -/
def serving (attached : Bool) (w : CommandWord) (after : List EnvMove) : State :=
  { State.reset with attached := attached, producers := [⟨[w], []⟩, ⟨[0x5000000000], []⟩], moves := .serve 0 :: after }

/-- A busy session: the sink has the default frame and has not answered. -/
def busy (after : List EnvMove) : State :=
  { State.reset with
    attached := true, activity := .transmitting .attach (encodeFrame ControllerState.defaults)
    producers := [⟨[], []⟩, ⟨[0x5000000000], []⟩], moves := after }

/-- R84, part 2.6 row 1: an update with no sink bound writes, emits nothing, completes with FAIL. -/
theorem test_step_detached :
    (nextState? (step (serving false 0x2000000001 []))).map
      (fun t => (t.ctl.buttons, t.sink, (t.producers.map Producer.received))) =
      some (1, [], [[.fail], []]) := by decide
/-- R146: without an answer the command is in progress. -/
theorem test_step_unanswered :
    (nextState? (step (serving true 0x2000000001 []))).map (fun t => (t.activity, t.producers.map Producer.received)) =
      some (.transmitting (.setButton 0 true)
        #v[0x02, 0x0B, 0x03, 0x01, 0x80, 0x80, 0x80, 0x80, 0x18, 0x00, 0x00, 0x00, 0x00, 0x03], [[], []]) := by decide
/-- R52: a busy block does not accept producer 1's command. -/
theorem test_step_busy : (nextState? (step (busy [.serve 1]))).map State.producers = some (busy []).producers := by
  decide
/-- R70, U1. -/
theorem test_step_reserved : nextState? (step (serving true 0x2E00000001 [])) = none := by decide
/-- The first instruction after reset, as the host places it. -/
theorem test_withFetchWord :
    (nextState? (step (State.reset.withFetchWord 40 0x0000000000))).map (·.attached) = some true := by decide

/-! ## Witnesses: the hypotheses of the statements can be met -/

theorem witness_DecodeInvertsEncode :
    (Instr.setTrigger .left (-2147483648)).wellFormed = true ∧ (Instr.setDpadAxis .y 2147483647).wellFormed = true := by
  decide
theorem witness_EncodeInvertsDecode : decode 0x5080000000 = .command (.setAxis .leftX (-2147483648)) := by decide
/-- Each clause at the ends of its range: the last button, the largest mask, both ends of the sign, the last opcode. -/
theorem witness_DecodeOnNumbers :
    ((13 : Nat) < 16 ∧ (1 : Nat) < 4294967296 ∧ (13 : Nat) = (13 : Fin 14).val ∧ (1 : Nat) = true.toNat) ∧
    ((14 : Nat) < 16 ∧ ¬ ((14 : Nat) ≤ 13 ∧ (0 : Nat) < 2)) ∧ ((0 : Nat) = 0 ∧ (16383 : Nat) < 16384) ∧
    ((3 : Nat) < 16 ∧ (4294967295 : Nat) < 4294967296 ∧ ¬ (4294967295 : Nat) < 2147483648) ∧
    (2147483647 : Nat) < 2147483648 ∧ ((10 : Nat) ≤ 10 ∧ (15 : Nat) < 16) := by decide
theorem witness_OpcodeTableIsTheDecoder :
    ∀ row ∈ opcodeTable, row.fits row.value = true ∧ row.further row.value = true := by decide
/-- A word for each case of R70, and one that is not reserved, in the place the statement asks for. -/
theorem witness_ReservedWordsAreRefused :
    (∀ w, (serving true w []).activity = .idle ∧ (serving true w []).moves = .serve 0 :: [] ∧
      (serving true w []).producers[0]? = some ⟨[w], []⟩) ∧
    [0xA000000000, 0x3100000000, 0x1000000001, 0x2E00000000, 0x2000000002, 0x3000004000, 0x5400000000,
      0x6200000000, 0x7200000000].map (fun w => (decode w).instr?) = List.replicate 9 none ∧
    decode 0x2D00000001 = .command (.setButton 13 true) :=
  ⟨fun _ => ⟨rfl, rfl, rfl⟩, by decide, by decide⟩
/-- Each clause at its boundary values. -/
theorem witness_FromAxesClassifies :
    (128 : Byte).toNat = 128 ∧ (127 : Byte).toNat < 128 ∧ 128 < (129 : Byte).toNat := by decide
theorem witness_ToAxesIsTheCanonicalTable : (-1 : Int) < 0 ∧ (8 : Int) < 9 := by decide
theorem witness_CompassAxesRoundTrip :
    (0 : Int) ≤ 0 ∧ (8 : Int) ≤ 8 ∧ toAxes 8 = (128, 128) ∧ toAxes (dpadInt (fromAxes 0 255)) = (0, 255) := by decide
theorem witness_ButtonFlagsLandInTheirBits : (3 : Nat) < 4 ∧ (7 : Nat) < 8 ∧ (1 : Nat) < 2 ∧ (5 : Nat) < 6 := by decide
theorem witness_ResetMoveRestoresTheBlock : (busy [.reset]).moves = .reset :: [] := rfl
theorem witness_SetButtonWritesOneFlag : (0 : Nat) < 14 ∧ (13 : Nat) < 14 := by decide
/-- The four clauses: `detach`, no sink bound, answered, not answered. -/
theorem witness_CommandCycle :
    (∃ t, exec .detach (session .ok) = .next t) ∧
    (∃ t, exec (.setButton 0 true) (serving false 0 []) = .next t ∧ t.attached = false) ∧
    (∃ t, exec (.setButton 0 true) (session .fail) = .next t ∧ t.attached = true ∧
      (session .fail).moves = .answer .fail :: []) ∧
    (∃ t, exec (.setButton 0 true) (busy []) = .next t ∧ t.attached = true ∧
      ∀ (a : SinkAnswer) (rest : List EnvMove), (busy []).moves ≠ .answer a :: rest) :=
  ⟨⟨_, rfl⟩, ⟨_, rfl, rfl⟩, ⟨_, rfl, rfl, rfl⟩, ⟨_, rfl, rfl, fun _ _ h => nomatch h⟩⟩
/-- With a sink bound, and `attach` with none. -/
theorem witness_AnsweredCommandsComplete :
    (Instr.setButton 13 true ≠ .detach ∧ (session .fail).attached = true ∧
      (session .fail).moves = .answer .fail :: []) ∧
    Instr.attach ≠ .detach ∧ ((session .ok).withAttached false).attached = false ∧
      ((session .ok).withAttached false).moves = .answer .ok :: [] := ⟨⟨by decide, rfl, rfl⟩, by decide, rfl, rfl⟩
theorem witness_EveryCommandIsTotal :
    (session .ok).ctl.consistent ∧ (serving true 0x1000000000 []).activity = .idle ∧
    (serving true 0x1000000000 []).producers[0]? = some ⟨[0x1000000000], []⟩ := by decide
theorem witness_CommandsWriteOnlyTheirFields :
    (∃ t, exec (.setDpadAxis .x 0) (session .ok) = .next t) ∧ Field.dpadYAxis ∉ fieldsWritten (.setDpadAxis .x 0) :=
  ⟨⟨_, rfl⟩, by decide⟩
theorem witness_CommandsAreIdempotentOnTheState :
    (∃ t u, exec .detach (session .ok) = .next t ∧ exec .detach t = .next u) ∧
    ∃ s t u, s.moves = [.answer .ok, .answer .fail] ∧ exec (.setButton 3 true) s = .next t ∧ t.attached = true ∧
      exec (.setButton 3 true) t = .next u :=
  ⟨⟨_, _, rfl, rfl⟩, { session .ok with moves := [.answer .ok, .answer .fail] }, _, _, rfl, rfl, rfl, rfl⟩
theorem witness_ReleaseAllIsSetAllZero :
    ∃ t u, exec .releaseAllButtons (session .ok) = .next t ∧ exec (.setAllButtons 0) (session .ok) = .next u :=
  ⟨_, _, rfl, rfl⟩
theorem witness_PackedAxesAreFourSetAxis :
    (∃ s s1 s2 s3 s4 t, s.attached = false ∧
      exec (.setAxis .leftX ((0xFF00807F : Operand).toNat % 256 : Nat)) s = .next s1 ∧
      exec (.setAxis .leftY ((0xFF00807F : Operand).toNat / 256 % 256 : Nat)) s1 = .next s2 ∧
      exec (.setAxis .rightX ((0xFF00807F : Operand).toNat / 65536 % 256 : Nat)) s2 = .next s3 ∧
      exec (.setAxis .rightY ((0xFF00807F : Operand).toNat / 16777216 : Nat)) s3 = .next s4 ∧
      exec (.setAllAxesPacked 0xFF00807F) s = .next t) ∧
    ∃ s s1 s2 s3 s4 t, s.attached = true ∧ s.moves = [.answer .ok, .answer .ok, .answer .ok, .answer .fail] ∧
      exec (.setAxis .leftX ((0xFF00807F : Operand).toNat % 256 : Nat)) s = .next s1 ∧
      exec (.setAxis .leftY ((0xFF00807F : Operand).toNat / 256 % 256 : Nat)) s1 = .next s2 ∧
      exec (.setAxis .rightX ((0xFF00807F : Operand).toNat / 65536 % 256 : Nat)) s2 = .next s3 ∧
      exec (.setAxis .rightY ((0xFF00807F : Operand).toNat / 16777216 : Nat)) s3 = .next s4 ∧
      exec (.setAllAxesPacked 0xFF00807F) s = .next t :=
  ⟨⟨State.reset, _, _, _, _, _, rfl, rfl, rfl, rfl, rfl, rfl⟩,
    { session .ok with moves := [.answer .ok, .answer .ok, .answer .ok, .answer .fail] }, _, _, _, _, _, rfl, rfl, rfl,
    rfl, rfl, rfl, rfl⟩
theorem witness_PressThenReleaseClearsTheFlag :
    ∃ t u, exec (.setButton 13 true) (session .ok) = .next t ∧ exec (.setButton 13 false) t = .next u :=
  ⟨_, _, rfl, rfl⟩
theorem witness_AxisAfterCompassUsesTheBackFill :
    (0 : Int) ≤ 255 ∧ ∃ t u v, exec (.setDpadCompass 2) (session .ok) = .next t ∧
      exec (.setDpadAxis .x 255) t = .next u ∧ exec (.setDpadAxis .y 0) t = .next v :=
  ⟨by decide, _, _, _, rfl, rfl, rfl⟩
theorem witness_StepExecutesTheAcceptedCommand :
    (serving true 0x2D00000001 [.answer .ok]).activity = .idle ∧
    (serving true 0x2D00000001 [.answer .ok]).moves = .serve 0 :: [.answer .ok] ∧
    (serving true 0x2D00000001 [.answer .ok]).producers[0]? = some ⟨[0x2D00000001], []⟩ ∧
    decode 0x2D00000001 = .command (.setButton 13 true) := by decide
theorem witness_BusyBlockAcceptsNothing :
    (busy [.serve 1]).activity = .transmitting .attach (encodeFrame ControllerState.defaults) ∧
    (busy [.serve 1]).moves = .serve 1 :: [] := ⟨rfl, rfl⟩
/-- Busy and idle, a sink bound in both; the producer served has issued everything, or does not exist. -/
theorem witness_BlockMovesOnlyWhenPresentedOrAnswered :
    ((busy []).activity = .transmitting .attach (encodeFrame ControllerState.defaults) ∧ (busy []).moves = [] ∧
      (busy [.quiet]).moves = .quiet :: []) ∧
    (∀ ms, ((session .ok).withMoves ms).activity = .idle ∧ ((session .ok).withMoves ms).attached = true) ∧
    ((session .ok).withMoves []).moves = [] ∧ ((session .ok).withMoves [.quiet]).moves = .quiet :: [] ∧
    ∀ p ∈ [0, 1], ((session .ok).withMoves [.serve p]).moves = .serve p :: [] ∧
      ∀ w ws received, ((session .ok).withMoves [.serve p]).producers[p]? ≠ some ⟨w :: ws, received⟩ :=
  ⟨⟨rfl, rfl, rfl⟩, fun _ => ⟨rfl, rfl⟩, rfl, rfl, by simp [session]⟩
theorem witness_AnswerCompletesTheCommand :
    (busy [.answer .fail]).activity = .transmitting .attach (encodeFrame ControllerState.defaults) ∧
    (busy [.answer .fail]).moves = .answer .fail :: [] := ⟨rfl, rfl⟩
theorem witness_OnlyAStrayAnswerFaults : step (session .ok) = .fault .strayAnswer := rfl
/-- A busy state with the invariant, whose step completes the command. -/
theorem witness_Inv (moves : List EnvMove) : Inv (busy moves) :=
  ⟨rfl, ⟨rfl, rfl, by decide, show 0 < 2 by decide⟩, fun _ h => nomatch h⟩
theorem witness_StepKeepsTheInvariant :
    Inv (busy [.answer .ok]) ∧ ∃ t, step (busy [.answer .ok]) = .next t := ⟨witness_Inv _, _, rfl⟩
theorem witness_FramesAreNeverTorn :
    Inv (busy [.answer .ok]) ∧ ∃ t, step (busy [.answer .ok]) = .next t ∧ t.sink.length = 1 :=
  ⟨witness_Inv _, _, rfl, rfl⟩
theorem witness_AcceptedFrameMakesTheReceiverCurrent :
    Inv (busy [.answer .ok]) ∧
    (∃ t, step (busy [.answer .ok]) = .next t ∧ t.sink = [] ++ [⟨encodeFrame ControllerState.defaults, .ok⟩]) ∧
    ∃ t, step (busy [.answer .fail]) = .next t ∧ t.sink = [] ++ [⟨encodeFrame ControllerState.defaults, .fail⟩] :=
  ⟨witness_Inv _, ⟨_, rfl, rfl⟩, _, rfl, rfl⟩
theorem witness_StepTouchesOnlyTheIssuer :
    ∃ t, step (busy [.answer .ok]) = .next t ∧ (busy [.answer .ok]).producers[0]? = some ⟨[], []⟩ ∧
      t.producers[0]? = some ⟨[], [.ok]⟩ := ⟨_, rfl, rfl, rfl⟩
theorem witness_CommandsAreConserved :
    Inv (busy [.answer .ok]) ∧ (∃ t, step (busy [.answer .ok]) = .next t) ∧
    Inv (busy [.reset]) ∧ ∃ t, step (busy [.reset]) = .next t ∧ commandsAbandoned t = 1 :=
  ⟨witness_Inv _, ⟨_, rfl⟩, witness_Inv _, _, rfl, rfl⟩
theorem witness_OnlySessionCommandsBindTheSink :
    (∃ t, step (serving false 0x0000000000 []) = .next t ∧ t.attached = true) ∧
    ∃ t, step (busy [.reset]) = .next t ∧ t.attached = false := ⟨⟨_, rfl, rfl⟩, _, rfl, rfl⟩
theorem witness_DetachedBlockIsSilent :
    (serving false 0x0000000000 []).attached = false ∧ (serving false 0x0000000000 []).activity = .idle ∧
    ∃ t, step (serving false 0x0000000000 []) = .next t ∧ handedOver t ≠ handedOver (serving false 0x0000000000 []) :=
  ⟨rfl, rfl, _, rfl, by decide⟩
theorem witness_DetachedFieldsAreUnobservable :
    sameOutside (serving false 0x2000000001 [])
      ((serving false 0x2000000001 []).withCtl { ControllerState.defaults with leftX := 0 }) :=
  ⟨rfl, fun h => nomatch h⟩
theorem witness_AnswersNeverReachTheState : sameButAnswers (busy [.answer .ok]) (busy [.answer .fail]) :=
  ⟨rfl, rfl, rfl, rfl, .cons ⟨rfl, rfl⟩ (.cons ⟨rfl, rfl⟩ .nil), .cons (.inr ⟨_, _, rfl, rfl⟩) .nil, rfl, rfl⟩

/-- Two producers with one update each, served in turn (R54): the run's start. -/
def race : State :=
  serving true 0x2100000001 [.answer .ok, .serve 1, .answer .fail]

theorem race_updatesOnly : updatesOnly race := by
  refine ⟨?_, by decide⟩
  rintro p (_ | ⟨_, _ | ⟨_, h⟩⟩) w hw
  · rcases List.mem_singleton.mp hw with rfl
    decide
  · rcases List.mem_singleton.mp hw with rfl
    decide
  · cases h
theorem witness_EveryRunHasAnAcceptanceOrder :
    race.attached = true ∧ race.activity = .idle ∧ updatesOnly race ∧
    ∃ t, Host.Core.run Sys2Proof.core 2 race = .next t := ⟨rfl, rfl, race_updatesOnly, _, rfl⟩
theorem witness_FinishedRunHasOneFrameForEachCommand :
    race.attached = true ∧ race.activity = .idle ∧ updatesOnly race ∧ race.producers.length = 2 ∧
    (∀ p ∈ race.producers, p.program.length = 1) ∧
    ∃ t, Host.Core.run Sys2Proof.core 2 race = .next t ∧ runOver race t ∧ t.sink.length = 2 :=
  ⟨rfl, rfl, race_updatesOnly, rfl, by decide, _, rfl,
    ⟨by unfold everyCommandIssued; decide, .cons rfl (.cons rfl .nil), rfl, fun h => h rfl⟩, rfl⟩
/-- A run that a reset cuts while its command is in progress, and one that nothing cuts. -/
theorem witness_RunsAreCutExactlyByResets :
    (∃ t, Host.Core.run Sys2Proof.core 2 (serving true 0x2100000001 [.reset]) = .next t ∧
      runCut (serving true 0x2100000001 [.reset]) t) ∧
    ∃ t, Host.Core.run Sys2Proof.core 2 race = .next t ∧ ¬ runCut race t :=
  ⟨⟨_, rfl, by unfold runCut; decide⟩, _, rfl, fun h => h rfl⟩
/-- An idle start whose command completes, one whose command a reset abandons (idle again, yet not completed: R150 (c),
R167), and one whose command is never answered. -/
theorem witness_IssuedCommandsCompleteUnlessAbandoned :
    race.activity = .idle ∧ (∃ t, Host.Core.run Sys2Proof.core 2 race = .next t ∧ t.activity = .idle) ∧
    (∃ t, Host.Core.run Sys2Proof.core 2 (serving true 0x2100000001 [.reset]) = .next t ∧ t.activity = .idle ∧
      commandsAbandoned t = 1) ∧
    ∃ t, Host.Core.run Sys2Proof.core 2 (serving true 0x2100000001 []) = .next t ∧ t.activity ≠ .idle :=
  ⟨rfl, ⟨_, rfl, rfl⟩, ⟨_, rfl, rfl, rfl⟩, _, rfl, by decide⟩

end Sys2Proof.Tests
end

section
/-! PROOFS. The state (spec/10_state.md): the numbers of `Defaults` (R31), the access matrix (R27), the invariant of
every step (R29, R30, R102 to R104), and what the fields cannot show while no sink is bound (R36). -/

namespace Sys2Proof.Machine

/-! ## The defaults (R31) -/

/-- Settles O18, by the definition of `ControllerState.defaults`. -/
theorem defaultsAreNeutral : Obligations.DefaultsAreNeutral :=
  ⟨rfl, rfl, rfl, rfl, rfl, rfl, rfl, rfl, rfl, rfl⟩

/-! ## The step on each move of the environment -/

section
variable {s : State} {rest : List EnvMove}

theorem step_of_no_move (hm : s.moves = []) : step s = .next s := by
  simp only [step, hm]

theorem step_quiet (hm : s.moves = .quiet :: rest) : step s = .next (s.withMoves rest) := by
  simp only [step, hm]

theorem step_reset (hm : s.moves = .reset :: rest) : step s = .next (resetBlock (s.withMoves rest)) := by
  simp only [step, hm]

theorem step_answer_idle {a : SinkAnswer} (hm : s.moves = .answer a :: rest) (hi : s.activity = .idle) :
    step s = .fault .strayAnswer := by
  simp only [step, hm, hi]

theorem step_answer_busy {a : SinkAnswer} {c : Instr} {f : Frame} (hm : s.moves = .answer a :: rest)
    (hb : s.activity = .transmitting c f) :
    step s = .next (complete (statusOf a) (recordHandOver f a (s.withMoves rest))) := by
  simp only [step, hm, hb, awaitAnswer_answered hb hm]

theorem step_serve_busy {p : Nat} {c : Instr} {f : Frame} (hm : s.moves = .serve p :: rest)
    (hb : s.activity = .transmitting c f) : step s = .next (s.withMoves rest) := by
  simp only [step, hm, hb]

/-- The producer served presents nothing (log 5). -/
theorem step_serve_nothing {p : Nat} (hm : s.moves = .serve p :: rest) (hi : s.activity = .idle)
    (hp : accept p (s.withMoves rest) = none) : step s = .next (s.withMoves rest) := by
  simp only [step, hm, hi, stepServe, hp]

end

/-! ## The invariant (R29, R30, R102 to R104) -/

/-- Every frame the encoder makes is sound (R102, R103, R104). -/
theorem frameSound_encodeFrame (c : ControllerState) : frameSound (encodeFrame c) := by
  have hd := dpadBits_le c.dpad
  have hb := c.buttons.isLt
  refine ⟨rfl, rfl, rfl, rfl, rfl, ?_, ?_⟩
  · rw [encodeFrame_8, packLowButtons_toNat]
    omega
  · rw [encodeFrame_10, packHighButtons_toNat]
    omega

theorem handOverSound_of_idle {s : State} (hi : s.activity = .idle) : handOverSound s := by
  simp only [handOverSound, hi]

theorem handOverSound_iff_of_busy {s : State} {c : Instr} {f : Frame} (hb : s.activity = .transmitting c f) :
    handOverSound s ↔
      f = encodeFrame s.ctl ∧ s.attached = true ∧ c ≠ .detach ∧ s.issuer < s.producers.length := by
  simp only [handOverSound, hb]

/-- The environment's next move alone touches nothing the invariant speaks of. -/
theorem inv_withMoves {s : State} (ms : List EnvMove) (h : Inv s) : Inv (s.withMoves ms) := h

theorem inv_resetBlock {s : State} (h : Inv s) : Inv (resetBlock s) := by
  obtain ⟨-, -, hsink⟩ := h
  exact ⟨rfl, handOverSound_of_idle rfl, hsink⟩

/-- Completion leaves nothing in progress, so only the fields and the sink's record count. -/
theorem inv_complete (st : Status) {s : State} (hc : s.ctl.consistent) (hs : ∀ h ∈ s.sink, frameSound h.frame) :
    Inv (complete st s) :=
  ⟨hc, handOverSound_of_idle rfl, hs⟩

theorem sink_sound_recordHandOver {f : Frame} (a : SinkAnswer) {s : State} (hf : frameSound f)
    (hs : ∀ h ∈ s.sink, frameSound h.frame) : ∀ h ∈ (recordHandOver f a s).sink, frameSound h.frame := by
  intro h hh
  rw [recordHandOver_sink, List.mem_append, List.mem_singleton] at hh
  rcases hh with hh | rfl
  · exact hs h hh
  · exact hf

/-- Every command run for an existing producer ends in the invariant, whichever of its four ends it comes to (R81). -/
theorem exec_inv {i : Instr} {s t : State} (hc : s.ctl.consistent) (hp : s.issuer < s.producers.length)
    (hs : ∀ h ∈ s.sink, frameSound h.frame) (he : exec i s = .next t) : Inv t := by
  have hc' : (mutate i s).ctl.consistent := mutate_consistent i hc
  have hs' : ∀ h ∈ (mutate i s).sink, frameSound h.frame := by rwa [mutate_sink]
  rcases exec_cases he with ⟨-, rfl⟩ | ⟨-, -, rfl⟩ | ⟨-, -, a, rest, -, rfl⟩ | ⟨hd, ha, -, rfl⟩
  · exact inv_complete _ hc' hs'
  · exact inv_complete _ hc' hs'
  · exact inv_complete _ hc' (sink_sound_recordHandOver a (frameSound_encodeFrame _) hs')
  · have hp' : (mutate i s).issuer < (mutate i s).producers.length := by rwa [mutate_issuer, mutate_producers]
    exact ⟨hc', (handOverSound_iff_of_busy rfl).mpr ⟨rfl, ha, hd, hp'⟩, hs'⟩

/-- Settles O47, by the cases of a step: an answered hand-over is of a frame the encoder made, a served command is
`exec_inv`, and the other moves touch nothing or reset the block. -/
theorem stepKeepsTheInvariant : Obligations.StepKeepsTheInvariant := by
  intro s t hinv hstep
  have ⟨hc, hh, hs⟩ := hinv
  rcases step_cases hstep with ⟨-, rfl⟩ | ⟨rest, -, rfl⟩ | ⟨rest, -, rfl⟩ | ⟨a, rest, c, f, -, hb, rfl⟩ |
    ⟨p, rest, -, rfl⟩ | ⟨p, moves, w, rest, received, i, -, -, hp, -, he⟩
  · exact hinv
  · exact inv_withMoves rest hinv
  · exact inv_resetBlock (inv_withMoves rest hinv)
  · obtain ⟨rfl, -, -, -⟩ := (handOverSound_iff_of_busy hb).mp hh
    exact inv_complete _ hc (sink_sound_recordHandOver a (frameSound_encodeFrame _) hs)
  · exact inv_withMoves rest hinv
  · have hlt : p < s.producers.length := (List.getElem?_eq_some_iff.mp hp).1
    exact exec_inv (s := accepted p rest received (s.withMoves moves)) hc (by simpa using hlt) hs he

/-! ## What the fields cannot show while no sink is bound (R36) -/

theorem sameOutside_refl (s : State) : sameOutside s s := ⟨rfl, fun _ => rfl⟩

theorem sameOutcome_refl {related : State → State → Prop} (hr : ∀ s, related s s) (o : Result) :
    sameOutcome related o o := by
  cases o with
  | next s => exact hr s
  | fault r => rfl
  | refused r => rfl

theorem sameOutside_withCtl {s : State} (ha : s.attached = false) (c : ControllerState) :
    sameOutside s (s.withCtl c) :=
  ⟨rfl, fun h => absurd h (by simp [ha])⟩

/-- Related states are equal, or no sink is bound and they differ in the ten fields. -/
theorem sameOutside_cases {s s' : State} (h : sameOutside s s') :
    s' = s ∨ s.attached = false ∧ ∃ c, s' = s.withCtl c := by
  obtain ⟨hout, hctl⟩ := h
  cases ha : s.attached with
  | false => exact .inr ⟨rfl, s'.ctl, hout⟩
  | true =>
    rw [hctl ha] at hout
    exact .inl hout

/-- `attach` does not read the fields (R110). -/
theorem exec_attach_withCtl (s : State) (c : ControllerState) : exec .attach (s.withCtl c) = exec .attach s := rfl

/-- A mutation reads the ten fields for nothing but the ten fields. -/
theorem mutate_withCtl (i : Instr) (s : State) (c : ControllerState) :
    mutate i (s.withCtl c) = (mutate i s).withCtl (mutate i (s.withCtl c)).ctl := by
  cases i <;> rfl

theorem mutate_attached_of_detached {i : Instr} {s : State} (hi : i ≠ .attach) (ha : s.attached = false) :
    (mutate i s).attached = false := by
  simp [mutate_attached, hi, ha]

/-- With no sink bound every command but `attach` completes at once, with a status that only its name decides. -/
theorem exec_of_detached {i : Instr} {s : State} (hi : i ≠ .attach) (ha : s.attached = false) :
    exec i s = .next (complete (if i = .detach then .ok else .fail) (mutate i s)) := by
  by_cases hd : i = .detach
  · subst hd
    exact exec_detach s
  · simp [exec_update hd, emitFrame, mutate_attached_of_detached hi ha, hd, transportFailure]

theorem exec_sameOutside (i : Instr) {s : State} (ha : s.attached = false) (c : ControllerState) :
    sameOutcome sameOutside (exec i s) (exec i (s.withCtl c)) := by
  by_cases hi : i = .attach
  · subst hi
    rw [exec_attach_withCtl]
    exact sameOutcome_refl sameOutside_refl _
  · rw [exec_of_detached hi ha, exec_of_detached (s := s.withCtl c) hi ha, mutate_withCtl]
    exact sameOutside_withCtl (s := complete _ (mutate i s)) (mutate_attached_of_detached hi ha) _

theorem accept_withCtl_of_none {p : Nat} {s : State} (hn : accept p s = none) (c : ControllerState) :
    accept p (s.withCtl c) = none := by
  rcases accept_cases p (s.withCtl c) with h | ⟨w, rest, received, hp, -⟩
  · exact h
  · have hsome := accept_some (s := s) hp
    simp [hn] at hsome

/-- Accepting a command and then overwriting the fields is the same the other way round, so a served command is
`exec_sameOutside`. -/
theorem step_serve_sameOutside {s : State} {p : Nat} {rest : List EnvMove} (ha : s.attached = false)
    (hm : s.moves = .serve p :: rest) (hi : s.activity = .idle) (c : ControllerState) :
    sameOutcome sameOutside (step s) (step (s.withCtl c)) := by
  rcases accept_cases p (s.withMoves rest) with hn | ⟨w, ws, received, hp, -⟩
  · rw [step_serve_nothing hm hi hn, step_serve_nothing (s := s.withCtl c) hm hi (accept_withCtl_of_none hn c)]
    exact sameOutside_withCtl (s := s.withMoves rest) ha c
  · rw [step_serve hi hm hp, step_serve (s := s.withCtl c) hi hm hp]
    cases decode w with
    | command i => exact exec_sameOutside i (s := accepted p ws received (s.withMoves rest)) ha c
    | reserved why => rfl

theorem step_sameOutside {s : State} (ha : s.attached = false) (c : ControllerState) :
    sameOutcome sameOutside (step s) (step (s.withCtl c)) := by
  rcases hm : s.moves with _ | ⟨m, rest⟩
  · rw [step_of_no_move hm, step_of_no_move (s := s.withCtl c) hm]
    exact sameOutside_withCtl ha c
  · cases m with
    | quiet =>
      rw [step_quiet hm, step_quiet (s := s.withCtl c) hm]
      exact sameOutside_withCtl (s := s.withMoves rest) ha c
    | reset =>
      rw [step_reset hm, step_reset (s := s.withCtl c) hm]
      exact sameOutside_refl _
    | answer a =>
      cases hb : s.activity with
      | idle =>
        rw [step_answer_idle hm hb, step_answer_idle (s := s.withCtl c) hm hb]
        rfl
      | transmitting i f =>
        rw [step_answer_busy hm hb, step_answer_busy (s := s.withCtl c) hm hb]
        exact sameOutside_withCtl (s := complete _ (recordHandOver f a (s.withMoves rest))) ha c
    | serve p =>
      cases hb : s.activity with
      | idle => exact step_serve_sameOutside ha hm hb c
      | transmitting i f =>
        rw [step_serve_busy hm hb, step_serve_busy (s := s.withCtl c) hm hb]
        exact sameOutside_withCtl (s := s.withMoves rest) ha c

/-- Settles O54: related states are equal while a sink is bound, and `step_sameOutside` while none is. -/
theorem detachedFieldsAreUnobservable : Obligations.DetachedFieldsAreUnobservable := by
  intro s s' h
  rcases sameOutside_cases h with rfl | ⟨ha, c, rfl⟩
  · exact sameOutcome_refl sameOutside_refl _
  · exact step_sameOutside ha c

/-! ## The access matrix (R27) -/

theorem field_congr {s t : State} (hc : t.ctl = s.ctl) (ha : t.attached = s.attached) (f : Field) :
    t.field f = s.field f := by
  cases f <;> simp only [State.field, hc, ha]

section
variable {f : Field} (s : State) (v : Byte)

theorem field_withAttached (b : Bool) (hf : f ≠ .attached) : (s.withAttached b).field f = s.field f := by
  cases f <;> simp at hf <;> rfl

theorem field_writeButtons (b : ButtonSet) (hf : f ≠ .buttons) : (writeButtons b s).field f = s.field f := by
  cases f <;> simp at hf <;> rfl

theorem field_writeStick {which : StickAxis} {value : Int} (hf : f ∉ fieldsWritten (.setAxis which value)) :
    (s.withCtl (writeStick which v s.ctl)).field f = s.field f := by
  cases which <;> cases f <;> simp [fieldsWritten] at hf <;> rfl

theorem field_writeTrigger {which : TriggerSide} {value : Int} (hf : f ∉ fieldsWritten (.setTrigger which value)) :
    (s.withCtl (writeTrigger which v s.ctl)).field f = s.field f := by
  cases which <;> cases f <;> simp [fieldsWritten] at hf <;> rfl

theorem field_writeShadow {which : DpadAxis} {value : Int} (hf : f ∉ fieldsWritten (.setDpadAxis which value)) :
    (s.withCtl (deriveDpad (writeShadow which v s.ctl))).field f = s.field f := by
  cases which <;> cases f <;> simp [fieldsWritten] at hf <;> rfl

theorem field_writeCompass (d : DpadCode) {direction : Int} (hf : f ∉ fieldsWritten (.setDpadCompass direction)) :
    (s.withCtl (writeCompass d s.ctl)).field f = s.field f := by
  cases f <;> simp [fieldsWritten] at hf <;> rfl

theorem field_packedAxes {word : Operand} (hf : f ∉ fieldsWritten (.setAllAxesPacked word)) :
    (mutateSetAllAxesPacked word s).field f = s.field f := by
  cases f <;> simp [fieldsWritten] at hf <;> rfl

end

theorem mem_fieldsWritten_attach (f : Field) : f ∈ fieldsWritten .attach := by
  cases f <;> decide

/-- A mutation changes no field outside its row, row by row. -/
theorem mutate_field {i : Instr} {f : Field} (s : State) (hf : f ∉ fieldsWritten i) :
    (mutate i s).field f = s.field f := by
  cases i with
  | attach => exact absurd (mem_fieldsWritten_attach f) hf
  | detach => exact field_withAttached s _ (mt List.mem_singleton.mpr hf)
  | setButton index pressed => exact field_writeButtons s _ (mt List.mem_singleton.mpr hf)
  | setAllButtons mask => exact field_writeButtons s _ (mt List.mem_singleton.mpr hf)
  | releaseAllButtons => exact field_writeButtons s _ (mt List.mem_singleton.mpr hf)
  | setAxis which value => exact field_writeStick s _ hf
  | setTrigger which value => exact field_writeTrigger s _ hf
  | setDpadAxis which value => exact field_writeShadow s _ hf
  | setDpadCompass direction => exact field_writeCompass s _ hf
  | setAllAxesPacked word => exact field_packedAxes s hf

/-- Settles O34: a command leaves the fields its mutation leaves, and that keeps to its row. -/
theorem commandsWriteOnlyTheirFields : Obligations.CommandsWriteOnlyTheirFields := by
  intro i s t f he hf
  obtain ⟨hctl, hatt⟩ := exec_fields he
  rw [field_congr hctl hatt f, mutate_field s hf]

end Sys2Proof.Machine
end

section
/-! PROOFS. Ordering and the sink's view (spec/20_memory.md): what a step accepts (R51, R52), whom it touches (R50),
what it hands over (R54), what it conserves (R51, R150), the same command again (R48), and the acceptance order of a
run with its count of frames (R54). -/

namespace Sys2Proof.Machine

/-! ## What a step accepts (R51, R52, R83, R146) -/

/-- Settles O40, by `step_serve`. -/
theorem stepExecutesTheAcceptedCommand : Obligations.StepExecutesTheAcceptedCommand := by
  intro s p moves w rest received i hi hm hp hd
  rw [step_serve hi hm hp, hd]
  rfl

/-- Settles O41, by `step_serve_busy`. -/
theorem busyBlockAcceptsNothing : Obligations.BusyBlockAcceptsNothing := by
  intro s c frame p moves hb hm
  exact step_serve_busy hm hb

/-- A producer that has nothing to issue presents nothing (log 5). -/
theorem accept_eq_none {p : Nat} {s : State}
    (hp : ∀ w ws received, s.producers[p]? ≠ some ⟨w :: ws, received⟩) : accept p s = none := by
  rcases accept_cases p s with hn | ⟨w, ws, received, hsome, -⟩
  · exact hn
  · exact absurd hsome (hp w ws received)

/-- Settles O42, one lemma about `step` for each move. -/
theorem blockMovesOnlyWhenPresentedOrAnswered : Obligations.BlockMovesOnlyWhenPresentedOrAnswered := by
  refine ⟨fun s c frame _ => ⟨step_of_no_move, fun rest => step_quiet⟩, fun s hi => ⟨step_of_no_move, ?_, ?_⟩⟩
  · intro rest hm
    exact step_quiet hm
  · intro p rest hm hp
    exact step_serve_nothing hm hi (accept_eq_none hp)

/-! ## The same command again (R48) -/

theorem writeFlag_writeFlag (index : Fin 14) (pressed : Bool) (b : ButtonSet) :
    writeFlag index pressed (writeFlag index pressed b) = writeFlag index pressed b := by
  apply BitVec.eq_of_getLsbD_eq
  intro k hk
  simp only [writeFlag_getLsbD index pressed _ hk]
  split <;> rfl

/-- A mutation computes the ten fields from the ten fields alone. -/
theorem mutate_ctl_congr (i : Instr) {s s' : State} (h : s'.ctl = s.ctl) :
    (mutate i s').ctl = (mutate i s).ctl := by
  cases i <;> simp only [mutate, mutateAttach, mutateDetach, mutateSetButton, mutateSetAllButtons,
    mutateReleaseAllButtons, mutateSetAxis, mutateSetTrigger, mutateSetDpadAxis, mutateSetDpadCompass,
    mutateSetAllAxesPacked, writeButtons, State.withCtl_ctl, State.withAttached_ctl, h]

/-- A mutation is idempotent on the ten fields (R48); only the button flag is not idempotent by definition. -/
theorem mutate_mutate_ctl (i : Instr) (s : State) : (mutate i (mutate i s)).ctl = (mutate i s).ctl := by
  cases i with
  | attach => rfl
  | detach => rfl
  | setButton index pressed =>
    exact congrArg (fun b => { s.ctl with buttons := b }) (writeFlag_writeFlag index pressed s.ctl.buttons)
  | setAllButtons mask => rfl
  | releaseAllButtons => rfl
  | setAxis which value => cases which <;> rfl
  | setTrigger which value => cases which <;> rfl
  | setDpadAxis which value => cases which <;> rfl
  | setDpadCompass direction => rfl
  | setAllAxesPacked word => rfl

/-- The fields that a command leaves are left again by the same command. -/
theorem exec_exec_fields {i : Instr} {s t u : State} (ht : exec i s = .next t) (hu : exec i t = .next u) :
    u.ctl = t.ctl ∧ u.attached = t.attached := by
  obtain ⟨htctl, htatt⟩ := exec_fields ht
  obtain ⟨huctl, huatt⟩ := exec_fields hu
  constructor
  · rw [huctl, mutate_ctl_congr i htctl, mutate_mutate_ctl, htctl]
  · rw [huatt, mutate_attached, htatt, mutate_attached]
    split_ifs <;> rfl

theorem exec_detach_sink {s t : State} (h : exec .detach s = .next t) : t.sink = s.sink := by
  rw [exec_detach] at h
  cases h
  rfl

/-- A command that emits, with the sink's answer the next move: one frame is recorded and the move is used up. -/
theorem exec_answered_sink {i : Instr} {s t : State} {a : SinkAnswer} {rest : List EnvMove} (hd : i ≠ .detach)
    (ha : t.attached = true) (hm : s.moves = .answer a :: rest) (he : exec i s = .next t) :
    t.sink = s.sink ++ [⟨encodeFrame t.ctl, a⟩] ∧ t.moves = rest := by
  rcases exec_cases he with ⟨hd', -⟩ | ⟨-, hn, rfl⟩ | ⟨-, -, a', rest', hm', rfl⟩ | ⟨-, -, hn, -⟩
  · exact absurd hd' hd
  · simp [hn] at ha
  · obtain ⟨rfl, rfl⟩ : a' = a ∧ rest' = rest := by simpa [hm] using hm'.symm
    simp
  · exact absurd hm (hn a rest)

/-- Settles O35: the fields by `exec_exec_fields`, the frames by `exec_answered_sink` once for each command. -/
theorem commandsAreIdempotentOnTheState : Obligations.CommandsAreIdempotentOnTheState := by
  intro i s t u ht hu
  obtain ⟨hctl, hatt⟩ := exec_exec_fields ht hu
  refine ⟨hctl, hatt, ?_, ?_⟩
  · rintro rfl
    rw [exec_detach_sink hu, exec_detach_sink ht]
  · intro hd ha a b rest hm
    obtain ⟨htsink, htmoves⟩ := exec_answered_sink hd ha hm ht
    obtain ⟨husink, -⟩ := exec_answered_sink hd (hatt.trans ha) htmoves hu
    rw [husink, htsink, hctl]
    simp

/-! ## The sink receives whole frames (R54) -/

theorem byteStream_of_sink_append {s t : State} {f : Frame} {a : SinkAnswer} (h : t.sink = s.sink ++ [⟨f, a⟩]) :
    byteStream t = byteStream s ++ f.toList := by
  simp [byteStream, h]

/-- A command adds to the sink's record nothing, or one frame of the state it leaves. -/
theorem exec_sink {i : Instr} {s t : State} (he : exec i s = .next t) :
    t.sink = s.sink ∨ ∃ a, t.sink = s.sink ++ [⟨encodeFrame t.ctl, a⟩] := by
  rcases exec_cases he with ⟨-, rfl⟩ | ⟨-, -, rfl⟩ | ⟨-, -, a, rest, -, rfl⟩ | ⟨-, -, -, rfl⟩
  · exact .inl (mutate_sink i s)
  · exact .inl (mutate_sink i s)
  · exact .inr ⟨a, by simp⟩
  · exact .inl (mutate_sink i s)

/-- A step adds to the sink's record nothing, or one frame of the state it leaves; for an answer to a hand-over in
progress that is what the invariant says of its frame. -/
theorem step_sink {s t : State} (hinv : Inv s) (h : step s = .next t) :
    t.sink = s.sink ∨ ∃ a, t.sink = s.sink ++ [⟨encodeFrame t.ctl, a⟩] := by
  obtain ⟨-, hh, -⟩ := hinv
  rcases step_cases h with ⟨-, rfl⟩ | ⟨rest, -, rfl⟩ | ⟨rest, -, rfl⟩ | ⟨a, rest, c, f, -, hb, rfl⟩ |
    ⟨p, rest, -, rfl⟩ | ⟨p, moves, w, rest, received, i, -, -, -, -, he⟩
  · exact .inl rfl
  · exact .inl rfl
  · exact .inl rfl
  · obtain ⟨rfl, -, -, -⟩ := (handOverSound_iff_of_busy hb).mp hh
    exact .inr ⟨a, rfl⟩
  · exact .inl rfl
  · exact exec_sink (s := accepted p rest received (s.withMoves moves)) he

/-- Settles O48, by `step_sink`; the byte stream follows the record. -/
theorem framesAreNeverTorn : Obligations.FramesAreNeverTorn := by
  intro s t hinv h
  rcases step_sink hinv h with hsink | ⟨a, hsink⟩
  · exact .inl ⟨hsink, by simp only [byteStream, hsink]⟩
  · exact .inr ⟨a, hsink, byteStream_of_sink_append hsink⟩

/-! ## Whom a step touches (R50, R86) -/

theorem getElem?_deliver (p : Nat) (st : Status) (ps : List Producer) (q : Nat) :
    (deliver p st ps)[q]? = if p = q then ps[q]?.map (Producer.receive st) else ps[q]? := by
  simp only [deliver, List.getElem?_modify]
  split <;> simp

/-- A command gives at most its producer one status. -/
theorem exec_producers {i : Instr} {s t : State} (he : exec i s = .next t) :
    t.issuer = s.issuer ∧ (t.producers = s.producers ∨ ∃ st, t.producers = deliver s.issuer st s.producers) := by
  rcases exec_cases he with ⟨-, rfl⟩ | ⟨-, -, rfl⟩ | ⟨-, -, a, rest, -, rfl⟩ | ⟨-, -, -, rfl⟩
  · exact ⟨mutate_issuer i s, .inr ⟨.ok, by simp⟩⟩
  · exact ⟨mutate_issuer i s, .inr ⟨.fail, by simp⟩⟩
  · exact ⟨mutate_issuer i s, .inr ⟨statusOf a, by simp⟩⟩
  · exact ⟨mutate_issuer i s, .inl (mutate_producers i s)⟩

/-- What one step may do to a producer: issue its next command, and receive one status. -/
def Producer.advancesTo (before after : Producer) : Prop :=
  (after.program = before.program ∨ ∃ w, before.program = w :: after.program) ∧
  (after.received = before.received ∨ ∃ st, after.received = before.received ++ [st])

theorem advancesTo_refl (p : Producer) : p.advancesTo p := ⟨.inl rfl, .inl rfl⟩

/-- Of the producers only number `issuer` may have changed, and that one has advanced. -/
def touchesOnly (issuer : Nat) (ps ps' : List Producer) : Prop :=
  ps'.length = ps.length ∧
  ∀ (q : Nat) (before after : Producer), ps[q]? = some before → ps'[q]? = some after →
    (after = before ∨ issuer = q) ∧ before.advancesTo after

theorem touchesOnly_refl (issuer : Nat) (ps : List Producer) : touchesOnly issuer ps ps := by
  refine ⟨rfl, fun q before after hb ha => ?_⟩
  obtain rfl : before = after := by simpa [hb] using ha
  exact ⟨.inl rfl, advancesTo_refl _⟩

/-- It is enough that the other producers are the same and that the issuer has advanced. -/
theorem touchesOnly_of_issuer {issuer : Nat} {ps ps' : List Producer} (hlen : ps'.length = ps.length)
    (hothers : ∀ q, issuer ≠ q → ps'[q]? = ps[q]?)
    (hissuer : ∀ before after, ps[issuer]? = some before → ps'[issuer]? = some after → before.advancesTo after) :
    touchesOnly issuer ps ps' := by
  refine ⟨hlen, fun q before after hb ha => ?_⟩
  by_cases hq : issuer = q
  · subst hq
    exact ⟨.inr rfl, hissuer before after hb ha⟩
  · obtain rfl : before = after := by simpa [hothers q hq, hb] using ha
    exact ⟨.inl rfl, advancesTo_refl _⟩

/-- The same for an issuer known to exist, by the producer it was and the one it is. -/
theorem touchesOnly_of_advance {issuer : Nat} {ps ps' : List Producer} {before after : Producer}
    (hlen : ps'.length = ps.length) (hothers : ∀ q, issuer ≠ q → ps'[q]? = ps[q]?)
    (hbefore : ps[issuer]? = some before) (hafter : ps'[issuer]? = some after) (h : before.advancesTo after) :
    touchesOnly issuer ps ps' := by
  refine touchesOnly_of_issuer hlen hothers fun before' after' hb ha => ?_
  obtain rfl : before = before' := Option.some.inj (hbefore.symm.trans hb)
  obtain rfl : after = after' := Option.some.inj (hafter.symm.trans ha)
  exact h

theorem touchesOnly_deliver (p : Nat) (st : Status) (ps : List Producer) :
    touchesOnly p ps (deliver p st ps) := by
  refine touchesOnly_of_issuer (deliver_length p st ps) (fun q hq => by simp [getElem?_deliver, hq]) ?_
  intro before after hb ha
  obtain rfl : before.receive st = after := by simpa [getElem?_deliver, hb] using ha
  exact ⟨.inl rfl, .inr ⟨st, rfl⟩⟩

section
variable {p : Nat} {ps : List Producer} {w : CommandWord} {rest : List CommandWord} {received : List Status}

theorem touchesOnly_accept (hp : ps[p]? = some ⟨w :: rest, received⟩) :
    touchesOnly p ps (ps.set p ⟨rest, received⟩) := by
  have hlt : p < ps.length := (List.getElem?_eq_some_iff.mp hp).1
  exact touchesOnly_of_advance List.length_set (fun q hq => List.getElem?_set_ne hq) hp (List.getElem?_set_self hlt)
    ⟨.inr ⟨w, rfl⟩, .inl rfl⟩

theorem touchesOnly_accept_deliver (st : Status) (hp : ps[p]? = some ⟨w :: rest, received⟩) :
    touchesOnly p ps (deliver p st (ps.set p ⟨rest, received⟩)) := by
  have hlt : p < ps.length := (List.getElem?_eq_some_iff.mp hp).1
  have hissuer : (deliver p st (ps.set p ⟨rest, received⟩))[p]? = some (Producer.receive st ⟨rest, received⟩) := by
    rw [getElem?_deliver, if_pos rfl, List.getElem?_set_self hlt, Option.map_some]
  exact touchesOnly_of_advance (by simp) (fun q hq => by simp [getElem?_deliver, hq]) hp hissuer
    ⟨.inr ⟨w, rfl⟩, .inr ⟨st, rfl⟩⟩

end

/-- Settles O50, by the cases of a step: an answer delivers to the issuer, a served command is issued by the new issuer
and perhaps answered at once, and the other moves leave the producers alone. -/
theorem stepTouchesOnlyTheIssuer : Obligations.StepTouchesOnlyTheIssuer := by
  intro s t h
  change touchesOnly t.issuer s.producers t.producers
  rcases step_cases h with ⟨-, rfl⟩ | ⟨rest, -, rfl⟩ | ⟨rest, -, rfl⟩ | ⟨a, rest, c, f, -, -, rfl⟩ |
    ⟨p, rest, -, rfl⟩ | ⟨p, moves, w, rest, received, i, -, -, hp, -, he⟩
  · exact touchesOnly_refl _ _
  · exact touchesOnly_refl _ _
  · exact touchesOnly_refl _ _
  · exact touchesOnly_deliver s.issuer (statusOf a) s.producers
  · exact touchesOnly_refl _ _
  · obtain ⟨hissuer, hps | ⟨st, hps⟩⟩ := exec_producers he <;> rw [hissuer, hps]
    · exact touchesOnly_accept hp
    · exact touchesOnly_accept_deliver st hp

/-! ## The programs -/

/-- The words that each producer has still to issue. -/
def programs (s : State) : List (List CommandWord) := s.producers.map Producer.program

theorem commandsWaiting_congr {s t : State} (h : programs t = programs s) : commandsWaiting t = commandsWaiting s := by
  have hsum := congrArg (fun wss => (wss.map List.length).sum) h
  simpa [commandsWaiting, programs, Function.comp_def] using hsum

theorem programs_complete (st : Status) (s : State) : programs (complete st s) = programs s :=
  deliver_programs s.issuer st s.producers

theorem programs_accepted (p : Nat) (rest : List CommandWord) (received : List Status) (s : State) :
    programs (accepted p rest received s) = (programs s).set p rest := by
  simp [programs, List.map_set]

/-- No command changes a program. -/
theorem exec_programs {i : Instr} {s t : State} (he : exec i s = .next t) : programs t = programs s := by
  obtain ⟨-, hps | ⟨st, hps⟩⟩ := exec_producers he
  · simp only [programs, hps]
  · simp only [programs, hps, deliver_programs]

/-! ## What a step conserves (R51, R150) -/

theorem commandsInProgress_of_idle {s : State} (hi : s.activity = .idle) : commandsInProgress s = 0 := by
  simp [commandsInProgress, outstanding, hi]

theorem commandsInProgress_of_busy {s : State} {c : Instr} {f : Frame} (hb : s.activity = .transmitting c f) :
    commandsInProgress s = 1 := by
  simp [commandsInProgress, outstanding, hb]

/-- A reset abandons what is in progress (R150 (c)) and counts nothing else differently. -/
theorem resetBlock_counts (s : State) (ms : List EnvMove) :
    commandsWaiting (resetBlock (s.withMoves ms)) = commandsWaiting s ∧
      commandsInProgress (resetBlock (s.withMoves ms)) = 0 ∧
      statusesDelivered (resetBlock (s.withMoves ms)) = statusesDelivered s ∧
      commandsAbandoned (resetBlock (s.withMoves ms)) = commandsAbandoned s + commandsInProgress s :=
  ⟨rfl, rfl, rfl, by simp [commandsAbandoned, abandonedFrames, commandsInProgress, outstanding]⟩

/-- Acceptance takes one command off those waiting. -/
theorem accepted_counts {s : State} {p : Nat} {w : CommandWord} {rest : List CommandWord} {received : List Status}
    (ms : List EnvMove) (hp : s.producers[p]? = some ⟨w :: rest, received⟩) :
    commandsWaiting (accepted p rest received (s.withMoves ms)) + 1 = commandsWaiting s ∧
      statusesDelivered (accepted p rest received (s.withMoves ms)) = statusesDelivered s ∧
      commandsAbandoned (accepted p rest received (s.withMoves ms)) = commandsAbandoned s := by
  obtain ⟨hw, hs⟩ := set_waiting hp
  exact ⟨hw, hs, rfl⟩

/-- `t` has one command more in progress or completed than `s` has completed, and as many waiting and abandoned: `s`
has just accepted that command, or is about to see it completed. -/
def carriesOneCommand (s t : State) : Prop :=
  commandsWaiting t = commandsWaiting s ∧
  commandsInProgress t + statusesDelivered t = statusesDelivered s + 1 ∧
  commandsAbandoned t = commandsAbandoned s

/-- Completion turns the command in progress into a status. -/
theorem carriesOneCommand_complete (st : Status) {s : State} (hp : s.issuer < s.producers.length) :
    carriesOneCommand s (complete st s) := by
  have hs : statusesDelivered (complete st s) = statusesDelivered s + 1 := deliver_received st hp
  exact ⟨commandsWaiting_congr (programs_complete st s),
    by rw [commandsInProgress_of_idle rfl, hs, Nat.zero_add], rfl⟩

/-- What a state has counted is read off its producers and its cut runs. -/
theorem carriesOneCommand_congr {s s' t : State} (hps : s'.producers = s.producers) (hcuts : s'.cuts = s.cuts)
    (h : carriesOneCommand s' t) : carriesOneCommand s t := by
  simpa only [carriesOneCommand, commandsWaiting, statusesDelivered, commandsAbandoned, abandonedFrames, hps, hcuts]
    using h

/-- A command run for an existing producer is completed or in progress, whichever of its four ends it comes to. -/
theorem exec_carriesOneCommand {i : Instr} {s t : State} (hp : s.issuer < s.producers.length)
    (he : exec i s = .next t) : carriesOneCommand s t := by
  have hp' : (mutate i s).issuer < (mutate i s).producers.length := by rwa [mutate_issuer, mutate_producers]
  refine carriesOneCommand_congr (mutate_producers i s) (mutate_cuts i s) ?_
  rcases exec_cases he with ⟨-, rfl⟩ | ⟨-, -, rfl⟩ | ⟨-, -, a, rest, -, rfl⟩ | ⟨-, -, -, rfl⟩
  · exact carriesOneCommand_complete .ok hp'
  · exact carriesOneCommand_complete .fail hp'
  · exact carriesOneCommand_congr rfl rfl (carriesOneCommand_complete (statusOf a) hp')
  · exact ⟨rfl, Nat.add_comm _ _, rfl⟩

/-- Settles O51, by the cases of a step: a reset abandons what is in progress, an answer completes it, and a served
command is taken off its program and is then completed or in progress. -/
theorem commandsAreConserved : Obligations.CommandsAreConserved := by
  intro s t hinv h
  obtain ⟨-, hh, -⟩ := hinv
  rcases step_cases h with ⟨-, rfl⟩ | ⟨rest, -, rfl⟩ | ⟨rest, -, rfl⟩ | ⟨a, rest, c, f, -, hb, rfl⟩ |
    ⟨p, rest, -, rfl⟩ | ⟨p, moves, w, rest, received, i, -, hi, hp, -, he⟩
  · rfl
  · rfl
  · obtain ⟨hw, hprogress, hs, ha⟩ := resetBlock_counts s rest
    omega
  · obtain ⟨-, -, -, hp⟩ := (handOverSound_iff_of_busy hb).mp hh
    have hbusy := commandsInProgress_of_busy hb
    obtain ⟨hw, hs, ha⟩ : carriesOneCommand s (complete (statusOf a) (recordHandOver f a (s.withMoves rest))) :=
      carriesOneCommand_complete (s := recordHandOver f a (s.withMoves rest)) (statusOf a) hp
    omega
  · rfl
  · have hlt : p < s.producers.length := (List.getElem?_eq_some_iff.mp hp).1
    have hidle := commandsInProgress_of_idle hi
    obtain ⟨hw, hs, ha⟩ := accepted_counts moves hp
    obtain ⟨hw', hs', ha'⟩ := exec_carriesOneCommand (by simpa using hlt) he
    omega

/-! ## A step of a session without `detach` and reset (R54) -/

/-- The moves after a command: all of them, or all but the answer it took. -/
theorem exec_moves {i : Instr} {s t : State} (he : exec i s = .next t) : t.moves <:+ s.moves := by
  rcases exec_cases he with ⟨-, rfl⟩ | ⟨-, -, rfl⟩ | ⟨-, -, a, rest, hm, rfl⟩ | ⟨-, -, -, rfl⟩
  · simp
  · simp
  · exact ⟨[.answer a], hm.symm⟩
  · simp

/-- An idle block with a sink bound after the mutation hands over one frame, answered at once or not. -/
theorem exec_handedOver {i : Instr} {s t : State} (hi : s.activity = .idle) (hd : i ≠ .detach)
    (ha : (mutate i s).attached = true) (he : exec i s = .next t) :
    handedOver t = handedOver s ++ [encodeFrame (mutate i s).ctl] := by
  rcases exec_cases he with ⟨hd', -⟩ | ⟨-, hn, -⟩ | ⟨-, -, a, rest, -, rfl⟩ | ⟨-, -, -, rfl⟩
  · exact absurd hd' hd
  · simp [hn] at ha
  · simp [handedOver, outstanding, hi]
  · simp [handedOver, outstanding, hi]

/-- An answer moves the frame in progress to the sink's record, so the frames handed over stay. -/
theorem handedOver_answered {s : State} {c : Instr} {f : Frame} (hb : s.activity = .transmitting c f)
    (a : SinkAnswer) (rest : List EnvMove) :
    handedOver (complete (statusOf a) (recordHandOver f a (s.withMoves rest))) = handedOver s := by
  simp [handedOver, outstanding, hb]

/-- A session as R54 counts it: a sink is bound, and neither a `detach` nor a reset will come. -/
def inSession (s : State) : Prop := s.attached = true ∧ updatesOnly s

theorem updatesOnly_iff (s : State) :
    updatesOnly s ↔
      (∀ ws ∈ programs s, ∀ w ∈ ws, decode w ≠ .command .detach) ∧ ∀ m ∈ s.moves, m ≠ .reset := by
  simp [updatesOnly, programs]

/-- What is left of a session is one: fewer moves and shorter programs. -/
theorem inSession_of_step {s t : State} (hs : inSession s) (ha : t.attached = true)
    (hps : ∀ ws ∈ programs t, ∃ ws' ∈ programs s, ws <:+ ws') (hms : t.moves <:+ s.moves) : inSession t := by
  obtain ⟨-, hu⟩ := hs
  obtain ⟨hwords, hmoves⟩ := (updatesOnly_iff s).mp hu
  refine ⟨ha, (updatesOnly_iff t).mpr ⟨fun ws hws w hw => ?_, fun m hm => hmoves m (hms.subset hm)⟩⟩
  obtain ⟨ws', hws', hsuffix⟩ := hps ws hws
  exact hwords ws' hws' w (hsuffix.subset hw)

/-- The step accepts nothing: fields, programs and the frames handed over stay. -/
structure AcceptsNothing (s t : State) : Prop where
  ctl : t.ctl = s.ctl
  programs : programs t = programs s
  frames : handedOver t = handedOver s

/-- The step accepts command `i` of producer `p`: its next word decodes to `i`, the fields are those of the mutation,
and one frame is handed over, that of those fields. -/
structure AcceptsOne (p : Nat) (i : Instr) (s t : State) : Prop where
  ctl : t.ctl = (mutate i s).ctl
  issues : ∃ w rest, (programs s)[p]? = some (w :: rest) ∧ decode w = .command i ∧
    programs t = (programs s).set p rest
  frames : handedOver t = handedOver s ++ [encodeFrame (mutate i s).ctl]

theorem inSession_of_acceptsNothing {s t : State} (hs : inSession s) (h : AcceptsNothing s t)
    (ha : t.attached = s.attached) (hms : t.moves <:+ s.moves) : inSession t := by
  have ⟨hatt, _⟩ := hs
  exact inSession_of_step hs (ha.trans hatt) (fun ws hws => ⟨ws, h.programs ▸ hws, List.suffix_refl ws⟩) hms

theorem inSession_of_acceptsOne {p : Nat} {i : Instr} {s t : State} (hs : inSession s) (h : AcceptsOne p i s t)
    (ha : t.attached = true) (hms : t.moves <:+ s.moves) : inSession t := by
  obtain ⟨w, rest, hp, -, hprograms⟩ := h.issues
  refine inSession_of_step hs ha (fun ws hws => ?_) hms
  rw [hprograms] at hws
  rcases List.mem_or_eq_of_mem_set hws with hws | rfl
  · exact ⟨ws, hws, List.suffix_refl ws⟩
  · exact ⟨w :: ws, List.mem_of_getElem? hp, List.suffix_cons w ws⟩

/-- An update keeps the sink bound. -/
theorem mutate_attached_of_update {i : Instr} {s : State} (hd : i ≠ .detach) (ha : s.attached = true) :
    (mutate i s).attached = true := by
  simp [mutate_attached, hd, ha]

/-- An idle block that serves an update, a sink bound, accepts that one command, and the sink stays bound. -/
theorem acceptsOne_of_exec {s t : State} {p : Nat} {ms : List EnvMove} {w : CommandWord} {rest : List CommandWord}
    {received : List Status} {i : Instr} (hatt : s.attached = true) (hi : s.activity = .idle) (hd : i ≠ .detach)
    (hp : s.producers[p]? = some ⟨w :: rest, received⟩) (hw : decode w = .command i)
    (he : exec i (accepted p rest received (s.withMoves ms)) = .next t) :
    AcceptsOne p i s t ∧ t.attached = true := by
  have hctl : (mutate i (accepted p rest received (s.withMoves ms))).ctl = (mutate i s).ctl := mutate_ctl_congr i rfl
  have ha : (mutate i (accepted p rest received (s.withMoves ms))).attached = true :=
    mutate_attached_of_update hd hatt
  have hprograms : programs t = (programs s).set p rest :=
    (exec_programs he).trans (programs_accepted p rest received (s.withMoves ms))
  have hframes : handedOver t = handedOver (accepted p rest received (s.withMoves ms)) ++ _ :=
    exec_handedOver hi hd ha he
  obtain ⟨htctl, htatt⟩ := exec_fields he
  exact ⟨⟨htctl.trans hctl, ⟨w, rest, by simp [programs, hp], hw, hprograms⟩, hctl ▸ hframes⟩, htatt.trans ha⟩

/-- All that a step of a session can be: it leaves a session, and accepts nothing or one command. -/
theorem inSession_step {s t : State} (hs : inSession s) (h : step s = .next t) :
    inSession t ∧ (AcceptsNothing s t ∨ ∃ p i, AcceptsOne p i s t) := by
  have ⟨hatt, hwords, hmoves⟩ := hs
  rcases step_cases h with ⟨-, rfl⟩ | ⟨rest, hm, rfl⟩ | ⟨rest, hm, -⟩ | ⟨a, rest, c, f, hm, hb, rfl⟩ |
    ⟨p, rest, hm, rfl⟩ | ⟨p, moves, w, rest, received, i, hm, hi, hp, hw, he⟩
  · exact ⟨hs, .inl ⟨rfl, rfl, rfl⟩⟩
  · have hn : AcceptsNothing s (s.withMoves rest) := ⟨rfl, rfl, rfl⟩
    exact ⟨inSession_of_acceptsNothing hs hn rfl ⟨[_], hm.symm⟩, .inl hn⟩
  · exact absurd rfl (hmoves .reset (by simp [hm]))
  · have hn : AcceptsNothing s (complete (statusOf a) (recordHandOver f a (s.withMoves rest))) :=
      ⟨rfl, programs_complete _ _, handedOver_answered hb a rest⟩
    exact ⟨inSession_of_acceptsNothing hs hn rfl ⟨[_], hm.symm⟩, .inl hn⟩
  · have hn : AcceptsNothing s (s.withMoves rest) := ⟨rfl, rfl, rfl⟩
    exact ⟨inSession_of_acceptsNothing hs hn rfl ⟨[_], hm.symm⟩, .inl hn⟩
  · have hd : i ≠ .detach := by
      rintro rfl
      exact hwords _ (List.mem_of_getElem? hp) w (by simp) hw
    obtain ⟨hone, ha⟩ := acceptsOne_of_exec hatt hi hd hp hw he
    have hms : t.moves <:+ s.moves := (exec_moves he).trans ⟨[_], hm.symm⟩
    exact ⟨inSession_of_acceptsOne hs hone ha hms, .inr ⟨p, i, hone⟩⟩

/-! ## Runs -/

/-- What every step keeps, and a relation that is reflexive and can be extended by a step in front, hold of a run. -/
theorem run_relates {keeps : State → Prop} {related : State → State → Prop} (hrefl : ∀ s, related s s)
    (hstep : ∀ s t, keeps s → step s = .next t → keeps t ∧ ∀ u, related t u → related s u) (k : Nat) {s u : State}
    (hs : keeps s) (hrun : Host.Core.run Sys2Proof.core k s = .next u) : related s u := by
  induction k generalizing s with
  | zero =>
    cases hrun
    exact hrefl _
  | succ k ih =>
    rw [core_run_succ] at hrun
    rcases ht : step s with t | r | r <;> rw [ht] at hrun
    · obtain ⟨hkt, hback⟩ := hstep s t hs ht
      exact hback u (ih hkt hrun)
    · cases hrun
    · cases hrun

/-! ## The acceptance order of a run (R51, R54) -/

/-- The frames of a sequence of commands depend on the ten fields they start from, and on nothing else. -/
theorem framesInOrder_congr {s s' : State} (h : s'.ctl = s.ctl) (is : List Instr) :
    framesInOrder s' is = framesInOrder s is := by
  induction is generalizing s s' with
  | nil => rfl
  | cons i is ih =>
    have hi := mutate_ctl_congr i h
    simp only [framesInOrder, hi, ih hi]

/-- Producer `p` has issued, of the words `before`, those that the order gives it, and has the words `after` left. -/
def issuesInOrder (order : List (Nat × Instr)) (p : Nat) (before after : List CommandWord) : Prop :=
  ∃ issued, before = issued ++ after ∧
    issued.map decode = (order.filter fun e => e.1 == p).map fun e => .command e.2

theorem issuesInOrder_nil (p : Nat) (ws : List CommandWord) : issuesInOrder [] p ws ws := ⟨[], rfl, rfl⟩

theorem issuesInOrder_cons_self {order : List (Nat × Instr)} {p : Nat} {i : Instr} {w : CommandWord}
    {rest after : List CommandWord} (hw : decode w = .command i) (h : issuesInOrder order p rest after) :
    issuesInOrder ((p, i) :: order) p (w :: rest) after := by
  obtain ⟨issued, rfl, hdecode⟩ := h
  exact ⟨w :: issued, rfl, by simp [hw, hdecode]⟩

theorem issuesInOrder_cons_other {order : List (Nat × Instr)} {p q : Nat} (i : Instr)
    {before after : List CommandWord} (hq : p ≠ q) (h : issuesInOrder order q before after) :
    issuesInOrder ((p, i) :: order) q before after := by
  obtain ⟨issued, hbefore, hdecode⟩ := h
  exact ⟨issued, hbefore, by simp [hq, hdecode]⟩

/-- `order` is an acceptance order of a run from `s` to `t`, told by the programs. -/
structure AcceptanceOrder (order : List (Nat × Instr)) (s t : State) : Prop where
  producers : ∀ e ∈ order, e.1 < (programs s).length
  issues : ∀ (p : Nat) (before after : List CommandWord), (programs s)[p]? = some before →
    (programs t)[p]? = some after → issuesInOrder order p before after
  frames : handedOver t = handedOver s ++ framesInOrder s (order.map Prod.snd)

theorem acceptanceOrder_nil (s : State) : AcceptanceOrder [] s s := by
  refine ⟨by simp, fun p before after hb ha => ?_, by simp [framesInOrder]⟩
  obtain rfl : before = after := by simpa [hb] using ha
  exact issuesInOrder_nil p before

/-- A step that accepts nothing adds nothing to the order of what follows. -/
theorem acceptanceOrder_of_acceptsNothing {order : List (Nat × Instr)} {s t u : State} (h : AcceptsNothing s t)
    (ho : AcceptanceOrder order t u) : AcceptanceOrder order s u := by
  obtain ⟨hctl, hprograms, hframes⟩ := h
  refine ⟨hprograms ▸ ho.producers, hprograms ▸ ho.issues, ?_⟩
  rw [ho.frames, hframes, framesInOrder_congr hctl]

/-- A step that accepts a command puts it in front of the order of what follows. -/
theorem acceptanceOrder_cons {order : List (Nat × Instr)} {p : Nat} {i : Instr} {s t u : State}
    (h : AcceptsOne p i s t) (ho : AcceptanceOrder order t u) : AcceptanceOrder ((p, i) :: order) s u := by
  obtain ⟨hctl, ⟨w, rest, hp, hdecode, hprograms⟩, hframes⟩ := h
  have hlt : p < (programs s).length := (List.getElem?_eq_some_iff.mp hp).1
  refine ⟨?_, fun q before after hb ha => ?_, ?_⟩
  · have hothers := ho.producers
    rw [hprograms, List.length_set] at hothers
    exact List.forall_mem_cons.mpr ⟨hlt, hothers⟩
  · by_cases hq : p = q
    · subst hq
      obtain rfl : w :: rest = before := by simpa [hp] using hb
      exact issuesInOrder_cons_self hdecode (ho.issues p rest after (by simp [hprograms, hlt]) ha)
    · exact issuesInOrder_cons_other i hq (ho.issues q before after (by simp [hprograms, hq, hb]) ha)
  · rw [ho.frames, hframes, framesInOrder_congr hctl]
    simp [framesInOrder]

/-- Every run of a session has an acceptance order, built from its steps from the last to the first. -/
theorem exists_acceptanceOrder {k : Nat} {s t : State} (hs : inSession s)
    (hrun : Host.Core.run Sys2Proof.core k s = .next t) : ∃ order, AcceptanceOrder order s t := by
  refine run_relates (related := fun s t => ∃ order, AcceptanceOrder order s t)
    (fun s => ⟨[], acceptanceOrder_nil s⟩) (fun s t hs h => ?_) k hs hrun
  obtain ⟨ht, hnothing | ⟨p, i, hone⟩⟩ := inSession_step hs h
  · exact ⟨ht, fun u ⟨order, ho⟩ => ⟨order, acceptanceOrder_of_acceptsNothing hnothing ho⟩⟩
  · exact ⟨ht, fun u ⟨order, ho⟩ => ⟨(p, i) :: order, acceptanceOrder_cons hone ho⟩⟩

/-- Settles O56, by `exists_acceptanceOrder`, with the programs read in their producers. -/
theorem everyRunHasAnAcceptanceOrder : Obligations.EveryRunHasAnAcceptanceOrder := by
  intro k s t hatt _ hu hrun
  obtain ⟨order, ho⟩ := exists_acceptanceOrder ⟨hatt, hu⟩ hrun
  refine ⟨order, by simpa [programs] using ho.producers, fun p before after hb ha => ?_, ho.frames⟩
  exact ho.issues p before.program after.program (by simp [programs, hb]) (by simp [programs, ha])

/-! ## The count of frames (R54) -/

/-- An accepted command is no longer waiting. -/
theorem commandsWaiting_of_acceptsOne {p : Nat} {i : Instr} {s t : State} (h : AcceptsOne p i s t) :
    commandsWaiting t + 1 = commandsWaiting s := by
  obtain ⟨w, rest, hp, -, hprograms⟩ := h.issues
  obtain ⟨⟨_, received⟩, hproducer, rfl⟩ : ∃ q, s.producers[p]? = some q ∧ q.program = w :: rest := by
    simpa [programs] using hp
  rw [commandsWaiting_congr (hprograms.trans (programs_accepted p rest received s).symm)]
  obtain ⟨hwaiting, -⟩ := set_waiting hproducer
  exact hwaiting

/-- In a session a step turns waiting commands into frames, one for one. -/
theorem inSession_step_count {s t : State} (hs : inSession s) (h : step s = .next t) :
    (handedOver t).length + commandsWaiting t = (handedOver s).length + commandsWaiting s := by
  obtain ⟨-, hnothing | ⟨p, i, hone⟩⟩ := inSession_step hs h
  · rw [hnothing.frames, commandsWaiting_congr hnothing.programs]
  · have hw := commandsWaiting_of_acceptsOne hone
    rw [hone.frames, List.length_append, List.length_singleton]
    omega

/-- In a run of a session the commands that are no longer waiting are as many as the frames handed over. -/
theorem run_count {k : Nat} {s t : State} (hs : inSession s) (hrun : Host.Core.run Sys2Proof.core k s = .next t) :
    (handedOver t).length + commandsWaiting t = (handedOver s).length + commandsWaiting s :=
  run_relates (related := fun s t =>
      (handedOver t).length + commandsWaiting t = (handedOver s).length + commandsWaiting s)
    (fun _ => rfl)
    (fun _ _ hs h => ⟨(inSession_step hs h).1, fun _ hu => hu.trans (inSession_step_count hs h)⟩) k hs hrun

/-- Of an idle block every frame handed over stands in the sink's record. -/
theorem handedOver_length_of_idle {s : State} (hi : s.activity = .idle) : (handedOver s).length = s.sink.length := by
  simp [handedOver, outstanding, hi]

/-- Producers with equally many commands left each. -/
theorem commandsWaiting_of_length {s : State} {m : Nat} (h : ∀ p ∈ s.producers, p.program.length = m) :
    commandsWaiting s = s.producers.length * m := by
  have hsum := List.sum_eq_card_nsmul (s.producers.map fun p => p.program.length) m (by simpa using h)
  simpa [commandsWaiting] using hsum

/-- Settles O57, by `run_count`: N times M commands wait at the start and none at the end, and the block is idle at
both. -/
theorem finishedRunHasOneFrameForEachCommand : Obligations.FinishedRunHasOneFrameForEachCommand := by
  intro k n m s t hatt hi hu hn hm hrun hover
  obtain ⟨hissued, -, hidle, -⟩ := hover
  have hcount := run_count ⟨hatt, hu⟩ hrun
  have hstart : commandsWaiting s = n * m := hn ▸ commandsWaiting_of_length hm
  have hend : commandsWaiting t = 0 := by
    simpa using commandsWaiting_of_length (m := 0) fun p hp => List.length_eq_zero_iff.mpr (hissued p hp)
  rwa [handedOver_length_of_idle hi, handedOver_length_of_idle hidle, hstart, hend] at hcount

end Sys2Proof.Machine
end

section
/-! PROOFS. The encoding (spec/30_encoding.md): the commands that R75 says do the same, `releaseAllButtons()` and
`setAllButtons(0)` (R117), `setAllAxesPacked(word)` and four `setAxis` (R122). -/

namespace Sys2Proof.Machine

/-! ## Commands with one mutation (R75 (a), R117) -/

/-- From the mutation on, the command's name is read for nothing but the name of a hand-over still in progress. -/
theorem emitFrame_rename (c c' : Instr) (s : State) :
    emitFrame c s = emitFrame c' s ∨
      ∃ f, emitFrame c s = .next (s.withActivity (.transmitting c f)) ∧
        emitFrame c' s = .next (s.withActivity (.transmitting c' f)) := by
  cases ha : s.attached with
  | false => exact .inl (by simp [emitFrame, ha])
  | true =>
    simp only [emitFrame, ha, if_true]
    rcases sinkWrite_cases c (encodeFrame s.ctl) s with ⟨a, rest, hm, e⟩ | ⟨hn, e⟩ <;>
      rcases sinkWrite_cases c' (encodeFrame s.ctl) s with ⟨a', rest', hm', e'⟩ | ⟨hn', e'⟩
    · obtain ⟨rfl, rfl⟩ : a' = a ∧ rest' = rest := by simpa [hm] using hm'.symm
      rw [e, e']
      exact .inl rfl
    · exact absurd hm (hn' a rest)
    · exact absurd hm' (hn a' rest')
    · rw [e, e']
      exact .inr ⟨_, rfl, rfl⟩

/-- Updates with one mutation end in one state, or both hand over one frame that the sink has not answered. -/
theorem exec_cases_of_mutate_eq {i i' : Instr} {s t u : State} (hi : i ≠ .detach) (hi' : i' ≠ .detach)
    (hm : mutate i s = mutate i' s) (ht : exec i s = .next t) (hu : exec i' s = .next u) :
    t = u ∨ ∃ f, t = (mutate i s).withActivity (.transmitting i f) ∧
      u = (mutate i s).withActivity (.transmitting i' f) := by
  rw [exec_update hi] at ht
  rw [exec_update hi', ← hm] at hu
  rcases emitFrame_rename i i' (mutate i s) with h | ⟨f, h, h'⟩
  · rw [h, hu] at ht
    injection ht with ht
    exact .inl ht.symm
  · rw [h] at ht
    rw [h'] at hu
    injection ht with ht
    injection hu with hu
    exact .inr ⟨f, ht.symm, hu.symm⟩

/-- Settles O36: both commands clear the buttons, and an unanswered hand-over is of one frame. -/
theorem releaseAllIsSetAllZero : Obligations.ReleaseAllIsSetAllZero := by
  intro s t u ht hu
  have hm : mutate .releaseAllButtons s = mutate (.setAllButtons 0) s := rfl
  rcases exec_cases_of_mutate_eq (by simp) (by simp) hm ht hu with rfl | ⟨f, rfl, rfl⟩
  · exact ⟨rfl, rfl, rfl, rfl, rfl, rfl⟩
  · exact ⟨rfl, rfl, rfl, rfl, rfl, rfl⟩

/-! ## The packed word and the four sticks (R75 (b), R122) -/

/-- The four lanes written one after another are the packed write. -/
theorem mutate_setAllAxesPacked_ctl (word : Operand) (s : State) :
    (mutate (.setAllAxesPacked word) s).ctl =
      writeStick .rightY (packedLane 3 word) (writeStick .rightX (packedLane 2 word)
        (writeStick .leftY (packedLane 1 word) (writeStick .leftX (packedLane 0 word) s.ctl))) := rfl

theorem exec_setAxis_ctl {which : StickAxis} {value : Int} {s t : State}
    (h : exec (.setAxis which value) s = .next t) : t.ctl = writeStick which (stickValue value) s.ctl :=
  (exec_fields h).1

/-- Only `attach` and `detach` change whether a sink is bound (R26). -/
theorem exec_attached {i : Instr} {s t : State} (ha : i ≠ .attach) (hd : i ≠ .detach) (h : exec i s = .next t) :
    t.attached = s.attached := by
  obtain ⟨-, hatt⟩ := exec_fields h
  simpa [mutate_attached, ha, hd] using hatt

theorem stickValue_lane_zero (word : Operand) : stickValue ((word.toNat % 256 : Nat) : Int) = packedLane 0 word := by
  simpa using stickValue_lane 0 word

/-- The last lane needs no remainder: nothing of the word lies above it. -/
theorem stickValue_lane_three (word : Operand) :
    stickValue ((word.toNat / 16777216 : Nat) : Int) = packedLane 3 word := by
  have hlt : word.toNat / 16777216 < 256 := by omega
  rw [← Nat.mod_eq_of_lt hlt]
  exact stickValue_lane 3 word

/-- Settles O37: the fields by the four lanes in order, the frames by `exec_answered_sink` once for each command. -/
theorem packedAxesAreFourSetAxis : Obligations.PackedAxesAreFourSetAxis := by
  intro word s s1 s2 s3 s4 t h1 h2 h3 h4 ht
  have hctl : t.ctl = s4.ctl := by
    have hlane1 : stickValue ((word.toNat / 256 % 256 : Nat) : Int) = packedLane 1 word := stickValue_lane 1 word
    have hlane2 : stickValue ((word.toNat / 65536 % 256 : Nat) : Int) = packedLane 2 word := stickValue_lane 2 word
    obtain ⟨htctl, -⟩ := exec_fields ht
    rw [htctl, mutate_setAllAxesPacked_ctl, exec_setAxis_ctl h4, exec_setAxis_ctl h3, exec_setAxis_ctl h2,
      exec_setAxis_ctl h1, stickValue_lane_zero, hlane1, hlane2, stickValue_lane_three]
  have ha1 : s1.attached = s.attached := exec_attached (by simp) (by simp) h1
  have ha2 : s2.attached = s.attached := (exec_attached (by simp) (by simp) h2).trans ha1
  have ha3 : s3.attached = s.attached := (exec_attached (by simp) (by simp) h3).trans ha2
  have ha4 : s4.attached = s.attached := (exec_attached (by simp) (by simp) h4).trans ha3
  have hat : t.attached = s.attached := exec_attached (by simp) (by simp) ht
  refine ⟨hctl, hat.trans ha4.symm, ?_⟩
  intro a1 a2 a3 a4 rest hatt hm
  obtain ⟨hsink, -⟩ := exec_answered_sink (by simp) (hat.trans hatt) hm ht
  obtain ⟨hsink1, hm1⟩ := exec_answered_sink (by simp) (ha1.trans hatt) hm h1
  obtain ⟨hsink2, hm2⟩ := exec_answered_sink (by simp) (ha2.trans hatt) hm1 h2
  obtain ⟨hsink3, hm3⟩ := exec_answered_sink (by simp) (ha3.trans hatt) hm2 h3
  obtain ⟨hsink4, -⟩ := exec_answered_sink (by simp) (ha4.trans hatt) hm3 h4
  constructor
  · rw [hsink, hctl]
  · rw [hsink4, hsink3, hsink2, hsink1]
    simp

end Sys2Proof.Machine
end

section
/-! PROOFS. The execution cycle (spec/40_execution_cycle.md): how every command ends (R81, R83, R85), that every
command runs (R87), the block without a sink (R83, D13), and what the sink's answers decide (R88, R133). -/

namespace Sys2Proof.Machine

/-! ## The ends of a command that emits (R81, R83, R85), each with its whole next state -/

/-- A mutation writes the ten fields and `attached`, and nothing else. -/
theorem mutate_eq (i : Instr) (s : State) :
    mutate i s = (s.withCtl (mutate i s).ctl).withAttached (mutate i s).attached := by
  cases i <;> rfl

section
variable {i : Instr} {s : State}

/-- Without a sink the command completes with FAIL (R83; log 15). -/
theorem exec_unbound (hd : i ≠ .detach) (ha : (mutate i s).attached = false) :
    exec i s = .next (complete .fail ((s.withCtl (mutate i s).ctl).withAttached false)) := by
  have hm := mutate_eq i s
  rw [ha] at hm
  rw [exec_update hd, hm]
  rfl

/-- With a sink the frame handed over is that of the mutated fields. -/
theorem exec_bound (hd : i ≠ .detach) (ha : (mutate i s).attached = true) :
    exec i s = .next (sinkWrite i (encodeFrame (mutate i s).ctl)
      ((s.withCtl (mutate i s).ctl).withAttached true)) := by
  have hm := mutate_eq i s
  rw [ha] at hm
  rw [exec_update hd, hm]
  rfl

/-- The sink's answer is the next move, and the command completes with it. -/
theorem exec_answered {a : SinkAnswer} {rest : List EnvMove} (hd : i ≠ .detach)
    (ha : (mutate i s).attached = true) (hm : s.moves = .answer a :: rest) :
    exec i s = .next (complete (statusOf a) (recordHandOver (encodeFrame (mutate i s).ctl) a
      (((s.withCtl (mutate i s).ctl).withAttached true).withMoves rest))) := by
  rw [exec_bound hd ha]
  exact congrArg Host.Outcome.next (awaitAnswer_answered rfl hm)

/-- The block stays busy with the command and its frame (log 24). -/
theorem exec_unanswered (hd : i ≠ .detach) (ha : (mutate i s).attached = true)
    (hm : ∀ a rest, s.moves ≠ .answer a :: rest) :
    exec i s = .next (((s.withCtl (mutate i s).ctl).withAttached true).withActivity
      (.transmitting i (encodeFrame (mutate i s).ctl))) := by
  rw [exec_bound hd ha]
  exact congrArg Host.Outcome.next (awaitAnswer_unanswered hm)

end

/-- Settles O31: the issuer and the cut runs are the same at every end, and each end is one equation of `exec`. -/
theorem commandCycle : Obligations.CommandCycle := by
  intro i s t he completes
  obtain ⟨-, hatt⟩ := exec_fields he
  obtain ⟨hissuer, -⟩ := exec_producers he
  refine ⟨hissuer, exec_cuts he, ?_, ?_, ?_, ?_⟩
  · rintro rfl
    cases (exec_detach s).symm.trans he
    exact ⟨⟨rfl, rfl⟩, rfl, rfl⟩
  · intro hd ha
    cases (exec_unbound hd (hatt.symm.trans ha)).symm.trans he
    exact ⟨⟨rfl, rfl⟩, rfl, rfl⟩
  · intro hd ha a rest hm
    cases (exec_answered hd (hatt.symm.trans ha) hm).symm.trans he
    exact ⟨⟨rfl, rfl⟩, rfl, rfl⟩
  · intro hd ha hm
    cases (exec_unanswered hd (hatt.symm.trans ha) hm).symm.trans he
    exact ⟨rfl, rfl, rfl, rfl⟩

/-- Settles O32: with a sink bound before, or by `attach` itself, one is bound after the mutation, and then it is
`exec_answered`. -/
theorem answeredCommandsComplete : Obligations.AnsweredCommandsComplete := by
  intro i s a rest hd hbound hm
  have ha : (mutate i s).attached = true := by
    rcases hbound with ha | rfl
    · exact mutate_attached_of_update hd ha
    · rfl
  exact exec_answered hd ha hm

/-! ## Every command runs (R87) -/

/-- Settles O33: a command runs by `exec_next`, and a served word is either a command or reserved, and refused. -/
theorem everyCommandIsTotal : Obligations.EveryCommandIsTotal := by
  constructor
  · intro i s
    obtain ⟨t, he, hctl, -⟩ := exec_next i s
    exact ⟨t, he, fun hc => hctl ▸ mutate_consistent i hc⟩
  · intro s p moves w rest received hi hm hp
    rw [step_serve hi hm hp]
    cases decode w with
    | command i =>
      obtain ⟨t, he, -⟩ := exec_next i (accepted p rest received (s.withMoves moves))
      exact ⟨fun _ => ⟨i, rfl⟩, fun _ => ⟨t, he⟩⟩
    | reserved why => simp

/-! ## The block without a sink (R83, R111, D13) -/

theorem handedOver_of_idle {s : State} (hi : s.activity = .idle) : handedOver s = s.sink.map HandOver.frame := by
  simp [handedOver, outstanding, hi]

/-- With no sink bound every command but `attach` completes without a hand-over. -/
theorem exec_silent_of_detached {i : Instr} {s t : State} (hi : i ≠ .attach) (ha : s.attached = false)
    (he : exec i s = .next t) : t.activity = .idle ∧ t.sink = s.sink := by
  cases (exec_of_detached hi ha).symm.trans he
  exact ⟨rfl, mutate_sink i s⟩

/-- Settles O53, by the cases of a step: an idle block has no hand-over to be answered, and the command served is
`attach` or silent. -/
theorem detachedBlockIsSilent : Obligations.DetachedBlockIsSilent := by
  intro s t ha hi h hframes
  rw [handedOver_of_idle hi] at hframes
  rcases step_cases h with ⟨-, rfl⟩ | ⟨rest, -, rfl⟩ | ⟨rest, -, rfl⟩ | ⟨a, rest, c, f, -, hb, -⟩ |
    ⟨p, rest, -, rfl⟩ | ⟨p, moves, w, rest, received, i, hm, -, hp, hw, he⟩
  · exact absurd (handedOver_of_idle hi) hframes
  · exact absurd (handedOver_of_idle hi) hframes
  · exact absurd (handedOver_of_idle rfl) hframes
  · simp [hi] at hb
  · exact absurd (handedOver_of_idle hi) hframes
  · by_cases hattach : i = .attach
    · exact ⟨p, moves, w, rest, received, hm, hp, hattach ▸ hw⟩
    · obtain ⟨hidle, hsink⟩ := exec_silent_of_detached hattach (by simpa using ha) he
      rw [handedOver_of_idle hidle, hsink] at hframes
      exact absurd rfl hframes

/-! ## Lists related place by place -/

section
variable {α β : Type*} {R : α → β → Prop} {l : List α} {l' : List β}

theorem forall₂_getElem? (h : List.Forall₂ R l l') (n : Nat) : Option.Rel R l[n]? l'[n]? := by
  induction h generalizing n with
  | nil => exact .none
  | cons hab _ ih =>
    cases n with
    | zero => exact .some hab
    | succ n => exact ih n

theorem forall₂_modify {f : α → α} {g : β → β} (h : List.Forall₂ R l l') (hfg : ∀ a b, R a b → R (f a) (g b))
    (n : Nat) : List.Forall₂ R (l.modify n f) (l'.modify n g) := by
  induction h generalizing n with
  | nil => simp
  | cons hab htail ih =>
    cases n with
    | zero => exact .cons (hfg _ _ hab) htail
    | succ n => exact .cons hab (ih n)

theorem forall₂_set {a : α} {b : β} (h : List.Forall₂ R l l') (hab : R a b) (n : Nat) :
    List.Forall₂ R (l.set n a) (l'.set n b) := by
  rw [List.set_eq_modify, List.set_eq_modify]
  exact forall₂_modify h (fun _ _ _ => hab) n

end

/-! ## What the sink's answers decide (R88, R133): the operations keep `sameButAnswers` -/

theorem sameButStatuses_receive {p p' : Producer} (h : sameButStatuses p p') (st st' : Status) :
    sameButStatuses (p.receive st) (p'.receive st') := by
  obtain ⟨hprogram, hlength⟩ := h
  exact ⟨hprogram, by simp [Producer.receive, hlength]⟩

section
variable {s s' : State} (h : sameButAnswers s s')
include h

theorem sameButAnswers_withCtl_withAttached (c : ControllerState) (b : Bool) :
    sameButAnswers ((s.withCtl c).withAttached b) ((s'.withCtl c).withAttached b) := by
  obtain ⟨-, -, hact, hissuer, hps, hms, hsink, hcuts⟩ := h
  exact ⟨rfl, rfl, hact, hissuer, hps, hms, hsink, hcuts⟩

theorem sameButAnswers_withActivity (a : Activity) : sameButAnswers (s.withActivity a) (s'.withActivity a) := by
  obtain ⟨hctl, hatt, -, hissuer, hps, hms, hsink, hcuts⟩ := h
  exact ⟨hctl, hatt, rfl, hissuer, hps, hms, hsink, hcuts⟩

theorem sameButAnswers_withMoves {ms ms' : List EnvMove} (hms : List.Forall₂ sameButAnswer ms ms') :
    sameButAnswers (s.withMoves ms) (s'.withMoves ms') := by
  obtain ⟨hctl, hatt, hact, hissuer, hps, -, hsink, hcuts⟩ := h
  exact ⟨hctl, hatt, hact, hissuer, hps, hms, hsink, hcuts⟩

theorem sameButAnswers_resetBlock : sameButAnswers (resetBlock s) (resetBlock s') := by
  obtain ⟨-, -, hact, hissuer, hps, hms, hsink, hcuts⟩ := h
  exact ⟨rfl, rfl, rfl, rfl, hps, hms, hsink, by simp [hcuts, hact, hissuer]⟩

/-- A completion gives the same producer one status, whichever it is. -/
theorem sameButAnswers_complete (st st' : Status) : sameButAnswers (complete st s) (complete st' s') := by
  obtain ⟨hctl, hatt, -, hissuer, hps, hms, hsink, hcuts⟩ := h
  refine ⟨hctl, hatt, rfl, hissuer, ?_, hms, hsink, hcuts⟩
  rw [complete_producers, complete_producers, hissuer]
  exact forall₂_modify hps (fun _ _ hp => sameButStatuses_receive hp st st') s.issuer

/-- A hand-over is recorded with the same frame, whatever its answer. -/
theorem sameButAnswers_recordHandOver (f : Frame) (a a' : SinkAnswer) :
    sameButAnswers (recordHandOver f a s) (recordHandOver f a' s') := by
  obtain ⟨hctl, hatt, hact, hissuer, hps, hms, hsink, hcuts⟩ := h
  exact ⟨hctl, hatt, hact, hissuer, hps, hms, by simp [hsink], hcuts⟩

/-- The end of an answered command. -/
theorem sameButAnswers_answered (f : Frame) (a a' : SinkAnswer) :
    sameButAnswers (complete (statusOf a) (recordHandOver f a s)) (complete (statusOf a') (recordHandOver f a' s')) :=
  sameButAnswers_complete (sameButAnswers_recordHandOver h f a a') _ _

theorem sameButAnswers_accepted (p : Nat) (rest : List CommandWord) {received received' : List Status}
    (hlength : received'.length = received.length) :
    sameButAnswers (accepted p rest received s) (accepted p rest received' s') := by
  obtain ⟨hctl, hatt, hact, -, hps, hms, hsink, hcuts⟩ := h
  have hissued : sameButStatuses ⟨rest, received⟩ ⟨rest, received'⟩ := ⟨rfl, hlength⟩
  exact ⟨hctl, hatt, hact, rfl, forall₂_set hps hissued p, hms, hsink, hcuts⟩

/-! ## Related states accept and run the same commands -/

/-- The next moves of related states: none, an answer in both, or the same other move. -/
theorem sameButAnswers_moves :
    (s.moves = [] ∧ s'.moves = []) ∨
    (∃ a a' rest rest', s.moves = .answer a :: rest ∧ s'.moves = .answer a' :: rest' ∧
      sameButAnswers (s.withMoves rest) (s'.withMoves rest')) ∨
    (∃ m rest rest', (∀ a, m ≠ .answer a) ∧ s.moves = m :: rest ∧ s'.moves = m :: rest' ∧
      sameButAnswers (s.withMoves rest) (s'.withMoves rest')) := by
  have ⟨_, _, _, _, _, hms, _, _⟩ := h
  generalize hm : s.moves = ms, hm' : s'.moves = ms' at hms
  cases hms with
  | nil => exact .inl ⟨rfl, rfl⟩
  | cons hhead htail =>
    have hrest := sameButAnswers_withMoves h htail
    rcases hhead with rfl | ⟨a, a', rfl, rfl⟩
    · next m _ _ =>
      by_cases hanswer : ∃ a, m = .answer a
      · obtain ⟨a, rfl⟩ := hanswer
        exact .inr (.inl ⟨a, a, _, _, rfl, rfl, hrest⟩)
      · exact .inr (.inr ⟨m, _, _, not_exists.mp hanswer, rfl, rfl, hrest⟩)
    · exact .inr (.inl ⟨a, a', _, _, rfl, rfl, hrest⟩)

/-- The sink answers now in both of two related states, or in neither. -/
theorem sameButAnswers_answer_or_not :
    (∃ a a' rest rest', s.moves = .answer a :: rest ∧ s'.moves = .answer a' :: rest' ∧
      sameButAnswers (s.withMoves rest) (s'.withMoves rest')) ∨
    ((∀ a rest, s.moves ≠ .answer a :: rest) ∧ ∀ a rest, s'.moves ≠ .answer a :: rest) := by
  rcases sameButAnswers_moves h with ⟨hm, hm'⟩ | hanswers | ⟨m, rest, rest', hn, hm, hm', -⟩
  · exact .inr ⟨by simp [hm], by simp [hm']⟩
  · exact .inl hanswers
  · exact .inr ⟨by simp [hm, hn], by simp [hm', hn]⟩

/-- The sink answers both hand-overs of one frame, perhaps differently, or neither. -/
theorem sinkWrite_sameButAnswers (c : Instr) (f : Frame) :
    sameButAnswers (sinkWrite c f s) (sinkWrite c f s') := by
  have hbusy := sameButAnswers_withActivity h (.transmitting c f)
  simp only [sinkWrite]
  rcases sameButAnswers_answer_or_not hbusy with ⟨a, a', rest, rest', hm, hm', hrest⟩ | ⟨hn, hn'⟩
  · rw [awaitAnswer_answered rfl hm, awaitAnswer_answered rfl hm']
    exact sameButAnswers_answered hrest f a a'
  · rw [awaitAnswer_unanswered hn, awaitAnswer_unanswered hn']
    exact hbusy

/-- Related states hand over the same frame, or both have no sink. -/
theorem emitFrame_sameButAnswers (c : Instr) :
    sameOutcome sameButAnswers (emitFrame c s) (emitFrame c s') := by
  have ⟨hctl, hatt, _⟩ := h
  simp only [emitFrame, hctl, hatt]
  split
  · exact sinkWrite_sameButAnswers h c _
  · exact sameButAnswers_complete h _ _

theorem sameButAnswers_mutate (i : Instr) : sameButAnswers (mutate i s) (mutate i s') := by
  have ⟨hctl, hatt, _⟩ := h
  rw [mutate_eq i s, mutate_eq i s', mutate_ctl_congr i hctl, mutate_attached i s, mutate_attached i s', hatt]
  exact sameButAnswers_withCtl_withAttached h _ _

theorem exec_sameButAnswers (i : Instr) : sameOutcome sameButAnswers (exec i s) (exec i s') := by
  have hmutate := sameButAnswers_mutate h i
  by_cases hd : i = .detach
  · subst hd
    exact sameButAnswers_complete hmutate .ok .ok
  · rw [exec_update hd, exec_update hd]
    exact emitFrame_sameButAnswers hmutate i

/-- The arbiter presents the same word, or nothing, in both of two related states. -/
theorem accept_sameButAnswers (p : Nat) :
    (accept p s = none ∧ accept p s' = none) ∨
    ∃ w t t', accept p s = some (w, t) ∧ accept p s' = some (w, t') ∧ sameButAnswers t t' := by
  have ⟨_, _, _, _, hps, _⟩ := h
  have hp := forall₂_getElem? hps p
  generalize hq : s.producers[p]? = q, hq' : s'.producers[p]? = q' at hp
  cases hp with
  | none => exact .inl ⟨accept_eq_none (by simp [hq]), accept_eq_none (by simp [hq'])⟩
  | @some producer producer' hsame =>
    obtain ⟨ws, received⟩ := producer
    obtain ⟨ws', received'⟩ := producer'
    obtain ⟨hprogram, hlength⟩ := hsame
    obtain rfl : ws' = ws := hprogram
    cases ws' with
    | nil => exact .inl ⟨accept_eq_none (by simp [hq]), accept_eq_none (by simp [hq'])⟩
    | cons w rest =>
      exact .inr ⟨w, _, _, accept_some hq, accept_some hq', sameButAnswers_accepted h p rest hlength⟩

theorem stepServe_sameButAnswers (p : Nat) :
    sameOutcome sameButAnswers (stepServe p s) (stepServe p s') := by
  rcases accept_sameButAnswers h p with ⟨hn, hn'⟩ | ⟨w, t, t', ha, ha', hsame⟩
  · simp only [stepServe, hn, hn']
    exact h
  · simp only [stepServe, ha, ha']
    cases decode w with
    | command i => exact exec_sameButAnswers hsame i
    | reserved why => rfl

end

theorem step_serve_idle {s : State} {p : Nat} {rest : List EnvMove} (hm : s.moves = .serve p :: rest)
    (hi : s.activity = .idle) : step s = stepServe p (s.withMoves rest) := by
  simp only [step, hm, hi]

/-- Settles O55, by the next moves of related states: whatever the answers, the step is of the same kind, and each
operation it makes keeps the relation. -/
theorem answersNeverReachTheState : Obligations.AnswersNeverReachTheState := by
  intro s s' h
  have ⟨_, _, hact, _⟩ := h
  rcases sameButAnswers_moves h with
    ⟨hm, hm'⟩ | ⟨a, a', rest, rest', hm, hm', hrest⟩ | ⟨m, rest, rest', hn, hm, hm', hrest⟩
  · rw [step_of_no_move hm, step_of_no_move hm']
    exact h
  · cases hb : s.activity with
    | idle =>
      rw [step_answer_idle hm hb, step_answer_idle hm' (hact.trans hb)]
      rfl
    | transmitting c f =>
      rw [step_answer_busy hm hb, step_answer_busy hm' (hact.trans hb)]
      exact sameButAnswers_answered hrest f a a'
  · cases m with
    | quiet =>
      rw [step_quiet hm, step_quiet hm']
      exact hrest
    | reset =>
      rw [step_reset hm, step_reset hm']
      exact sameButAnswers_resetBlock hrest
    | answer a => exact absurd rfl (hn a)
    | serve p =>
      cases hb : s.activity with
      | idle =>
        rw [step_serve_idle hm hb, step_serve_idle hm' (hact.trans hb)]
        exact stepServe_sameButAnswers hrest p
      | transmitting c f =>
        rw [step_serve_busy hm hb, step_serve_busy hm' (hact.trans hb)]
        exact hrest

end Sys2Proof.Machine
end

section
/-! PROOFS. The direction-pad combinator (spec/41_dpad_mapper.md): the compass codes (R90), the classification of two
axes (R91, R92), and the round trip between codes and axes (R94). -/

namespace Sys2Proof.Machine

/-! ## The compass codes (R90) -/

theorem dpadInt_fromCompass {d : Int} (h0 : 0 ≤ d) (h8 : d ≤ 8) : dpadInt (fromCompass d) = d := by
  interval_cases d <;> rfl

/-- Settles O8: the codes by `dpadInt_fromCompass`, every other integer by `fromCompass_outside`. -/
theorem fromCompassPassesIndicesThrough : Obligations.FromCompassPassesIndicesThrough := by
  intro d
  refine ⟨?_, fromCompass_dpadInt _⟩
  split_ifs with hd
  · obtain ⟨h0, h7⟩ := hd
    exact dpadInt_fromCompass h0 (by omega)
  · rw [fromCompass_outside (by omega)]
    rfl

/-! ## The round trip (R94)

`fromAxes` inverts `toAxes` on the codes (`fromAxes_toAxes`), and 0..8 are exactly the codes (`dpadInt_fromCompass`);
the rest of R94 follows from these two. -/

theorem fromAxes_of_toAxes {d : DpadCode} {x y : Byte} (h : toAxes (dpadInt d) = (x, y)) : fromAxes x y = d := by
  simpa only [h] using fromAxes_toAxes d

theorem toAxes_dpadInt_injective {d d' : DpadCode} (h : toAxes (dpadInt d) = toAxes (dpadInt d')) : d = d' :=
  (fromAxes_of_toAxes h).symm.trans (fromAxes_toAxes d')

theorem toAxes_injOn_codes {c c' : Int} (h0 : 0 ≤ c) (h8 : c ≤ 8) (h0' : 0 ≤ c') (h8' : c' ≤ 8)
    (h : toAxes c = toAxes c') : c = c' := by
  rw [← dpadInt_fromCompass h0 h8, ← dpadInt_fromCompass h0' h8'] at h ⊢
  rw [toAxes_dpadInt_injective h]

/-- The pairs `fromAxes` and `toAxes` return unchanged are the canonical ones of R93. -/
theorem toAxes_fromAxes_eq_iff (x y : Byte) :
    toAxes (dpadInt (fromAxes x y)) = (x, y) ↔ ∃ c : Int, 0 ≤ c ∧ c ≤ 8 ∧ toAxes c = (x, y) := by
  constructor
  · intro h
    obtain ⟨h0, h8⟩ := dpadInt_bounds (fromAxes x y)
    exact ⟨_, h0, h8, h⟩
  · rintro ⟨c, h0, h8, h⟩
    rw [← dpadInt_fromCompass h0 h8] at h
    rwa [fromAxes_of_toAxes h]

/-- Settles O12: `fromAxes` is a left inverse of `toAxes` on the codes, and the rest follows from that. -/
theorem compassAxesRoundTrip : Obligations.CompassAxesRoundTrip := by
  refine ⟨fun d h0 h8 => ?_, fun d => fromAxes_toAxes _, fun c c' h0 h8 h0' h8' => toAxes_injOn_codes h0 h8 h0' h8',
    toAxes_fromAxes_eq_iff⟩
  rw [fromAxes_toAxes, dpadInt_fromCompass h0 h8]

/-! ## The classification of two axes (R91, R92) -/

/-- Where an axis lies against the centre, all that `fromAxes` reads of it (R92 (d), (e)). -/
def axisSide (v : Byte) : Ordering := compare v.toNat 128

theorem axisSide_eq_lt {v : Byte} : axisSide v = .lt ↔ v.toNat < 128 := compare_lt_iff_lt

theorem axisSide_eq_eq {v : Byte} : axisSide v = .eq ↔ v.toNat = 128 := compare_eq_iff_eq

theorem axisSide_eq_gt {v : Byte} : axisSide v = .gt ↔ 128 < v.toNat := compare_gt_iff_gt

theorem eq_center_iff {v : Byte} : v = 128 ↔ axisSide v = .eq :=
  BitVec.toNat_inj.symm.trans axisSide_eq_eq.symm

theorem lt_center_iff {v : Byte} : v < 128 ↔ axisSide v = .lt :=
  BitVec.lt_def.trans axisSide_eq_lt.symm

/-- The grid of R91: the side of x, then the side of y. -/
def dpadGrid : Ordering → Ordering → DpadCode
  | .lt, .lt => .nw
  | .lt, .eq => .w
  | .lt, .gt => .sw
  | .eq, .lt => .n
  | .eq, .eq => .center
  | .eq, .gt => .s
  | .gt, .lt => .ne
  | .gt, .eq => .e
  | .gt, .gt => .se

theorem fromAxes_eq_dpadGrid (x y : Byte) : fromAxes x y = dpadGrid (axisSide x) (axisSide y) := by
  simp only [fromAxes, Config.axisCenter, eq_center_iff, lt_center_iff]
  cases axisSide x <;> cases axisSide y <;> rfl

/-- Settles O9: each clause is one entry of `dpadGrid`. -/
theorem fromAxesClassifies : Obligations.FromAxesClassifies := by
  intro x y
  simp only [fromAxes_eq_dpadGrid, ← axisSide_eq_lt, ← axisSide_eq_eq, ← axisSide_eq_gt]
  refine ⟨?_, ?_, ?_, ?_, ?_, ?_, ?_, ?_, ?_⟩ <;>
  · intro hx hy
    rw [hx, hy]
    rfl

/-- Settles O10: `toAxes` gives a pair for every code, and the rest is read off the entries of `dpadGrid`. -/
theorem centreIsExactlyOnePair : Obligations.CentreIsExactlyOnePair := by
  refine ⟨fun d => ⟨_, _, fromAxes_toAxes d⟩, fun x y => ?_⟩
  simp only [fromAxes_eq_dpadGrid, ne_eq, eq_center_iff]
  cases axisSide x <;> cases axisSide y <;> decide

end Sys2Proof.Machine
end

section
/-! PROOFS. The frame encoder (spec/42_frame_encoder.md): the constant bytes and the copied ones (R102, R105), the
packed bytes as numbers and bit by bit (R103, R104), and the transmitted fields read back from the frame (R107). -/

namespace Sys2Proof.Machine

/-! ## The constant bytes and the copied ones (R102, R105) -/

/-- Settles O13, byte by byte. -/
theorem frameConstantBytes : Obligations.FrameConstantBytes := fun c =>
  ⟨encodeFrame_0 c, encodeFrame_1 c, encodeFrame_2 c, encodeFrame_3 c, encodeFrame_13 c⟩

/-- Settles O14, byte by byte. -/
theorem frameAnalogBytesAreCopies : Obligations.FrameAnalogBytesAreCopies := fun c =>
  ⟨encodeFrame_4 c, encodeFrame_5 c, encodeFrame_6 c, encodeFrame_7 c, encodeFrame_11 c, encodeFrame_12 c⟩

/-! ## The packed bytes (R103, R104) -/

/-- Settles O15: byte 8 is `packLowButtons_toNat`, and the bounds follow from `dpadBits_le`. -/
theorem frameByteEightPacksLowButtonsAndDpad : Obligations.FrameByteEightPacksLowButtonsAndDpad := by
  intro c
  have hd := dpadBits_le c.dpad
  rw [encodeFrame_8, packLowButtons_toNat]
  omega

/-- Byte 10 is at most 3 (R104): it holds the two highest of fourteen flags. -/
theorem packHighButtons_le (b : ButtonSet) : (packHighButtons b).toNat ≤ 3 := by
  have hb := b.isLt
  rw [packHighButtons_toNat]
  omega

/-- Settles O16: the bytes as numbers and bit by bit, as the laws of the three packed bytes give them. -/
theorem buttonFlagsLandInTheirBits : Obligations.ButtonFlagsLandInTheirBits := by
  intro c
  rw [encodeFrame_8, encodeFrame_9, encodeFrame_10]
  refine ⟨packMidButtons_toNat _, packHighButtons_toNat _, packHighButtons_le _, fun k hk => ?_, fun k hk => ?_,
    fun k hk => ?_, fun k hk => ?_, fun k hk => ?_⟩
  · rw [packLowButtons_getLsbD, if_pos hk]
  · rw [packLowButtons_getLsbD]
    simp [show k + 4 < 8 by omega]
  · rw [packMidButtons_getLsbD]
    simp [hk]
  · rw [packHighButtons_getLsbD]
    simp [show k < 8 by omega]
  · rw [packHighButtons_getLsbD, BitVec.getLsbD_of_ge c.buttons _ (by omega), Bool.and_false]

/-! ## Reading the frame back (R107) -/

theorem dpadBits_of_packLowButtons (b : ButtonSet) (d : DpadCode) :
    (packLowButtons b d &&& 0x0F).setWidth 4 = dpadBits d := by
  have hd := (dpadBits d).isLt
  have mask (n : Nat) : n &&& BitVec.toNat (0x0F : Byte) = n % 16 := Nat.and_two_pow_sub_one_eq_mod n 4
  apply BitVec.eq_of_toNat_eq
  rw [BitVec.toNat_setWidth, BitVec.toNat_and, mask, packLowButtons_toNat]
  omega

/-- The mask of R107 (b) on byte 10 takes nothing away. -/
theorem packHighButtons_and_three (b : ButtonSet) : packHighButtons b &&& 3 = packHighButtons b := by
  apply BitVec.eq_of_toNat_eq
  have h := packHighButtons_le b
  rw [BitVec.toNat_and]
  exact (Nat.and_two_pow_sub_one_eq_mod _ 2).trans (Nat.mod_eq_of_lt (by omega))

/-- A flag is in the byte its index is of, and the other two terms of R107 (b) are clear there. -/
theorem buttons_of_packed (b : ButtonSet) (d : DpadCode) :
    (packLowButtons b d >>> 4).setWidth 14 ||| ((packMidButtons b).setWidth 14 <<< 4) |||
      ((packHighButtons b &&& 3).setWidth 14 <<< 12) = b := by
  rw [packHighButtons_and_three]
  apply BitVec.eq_of_getLsbD_eq
  intro k hk
  simp only [BitVec.getLsbD_or, BitVec.getLsbD_setWidth, BitVec.getLsbD_ushiftRight, BitVec.getLsbD_shiftLeft,
    packLowButtons_getLsbD, packMidButtons_getLsbD, packHighButtons_getLsbD]
  have hbyte : k < 4 ∨ 4 ≤ k ∧ k < 12 ∨ 12 ≤ k := by omega
  rcases hbyte with hlow | hmid | hhigh
  · grind
  · grind
  · grind

/-- Reading a frame inverts the encoder on the transmitted fields (R107 (b)). -/
theorem readFrame_encodeFrame (c : ControllerState) : readFrame (encodeFrame c) = c.transmitted := by
  simp only [readFrame, ControllerState.transmitted, encodeFrame_4, encodeFrame_5, encodeFrame_6, encodeFrame_7,
    encodeFrame_8, encodeFrame_9, encodeFrame_10, encodeFrame_11, encodeFrame_12, dpadBits_of_packLowButtons,
    buttons_of_packed]

theorem transmitted_eq_iff (c c' : ControllerState) :
    c.transmitted = c'.transmitted ↔
      c.leftX = c'.leftX ∧ c.leftY = c'.leftY ∧ c.rightX = c'.rightX ∧ c.rightY = c'.rightY ∧
      c.buttons = c'.buttons ∧ c.dpad = c'.dpad ∧ c.leftTrigger = c'.leftTrigger ∧
      c.rightTrigger = c'.rightTrigger := by
  have hd : dpadBits c.dpad = dpadBits c'.dpad ↔ c.dpad = c'.dpad := ⟨dpadBits_injective, congrArg dpadBits⟩
  simp only [ControllerState.transmitted, Transmitted.mk.injEq, hd]
  tauto

/-- The encoder reads the transmitted fields only (R107 (c)). -/
theorem encodeFrame_eq_of_transmitted_eq {c c' : ControllerState} (h : c.transmitted = c'.transmitted) :
    encodeFrame c = encodeFrame c' := by
  obtain ⟨hlx, hly, hrx, hry, hb, hd, hlt, hrt⟩ := (transmitted_eq_iff c c').mp h
  simp only [encodeFrame, hlx, hly, hrx, hry, hb, hd, hlt, hrt]

/-- Settles O17: `readFrame` inverts the encoder on the transmitted fields, and the encoder reads nothing else. -/
theorem frameReadsBack : Obligations.FrameReadsBack := by
  refine ⟨readFrame_encodeFrame, fun c c' => ?_⟩
  rw [← transmitted_eq_iff]
  constructor
  · intro h
    rw [← readFrame_encodeFrame c, h, readFrame_encodeFrame c']
  · exact encodeFrame_eq_of_transmitted_eq

end Sys2Proof.Machine
end

section
/-! PROOFS. The button commands (spec/44_button_commands.md): a command whose mutation replaces the button register
runs and replaces nothing else, and which register `setAllButtons` and `releaseAllButtons` write (R116, R117). -/

namespace Sys2Proof.Machine

@[simp] theorem writeButtons_ctl (b : ButtonSet) (s : State) :
    (writeButtons b s).ctl = { s.ctl with buttons := b } := rfl

@[simp] theorem writeButtons_attached (b : ButtonSet) (s : State) : (writeButtons b s).attached = s.attached := rfl

theorem mutate_setAllButtons (mask : ButtonSet) (s : State) :
    mutate (.setAllButtons mask) s = writeButtons mask s := rfl

theorem mutate_releaseAllButtons (s : State) : mutate .releaseAllButtons s = writeButtons 0 s := rfl

/-- The common end of a command (R81) leaves the fields alone, so the register written is all that changes in them. -/
theorem exec_next_of_mutate_writeButtons {i : Instr} {s : State} {b : ButtonSet}
    (hm : mutate i s = writeButtons b s) :
    ∃ t, exec i s = .next t ∧ t.ctl = { s.ctl with buttons := b } ∧ t.attached = s.attached := by
  obtain ⟨t, he, hctl, hatt⟩ := exec_next i s
  rw [hm] at hctl hatt
  exact ⟨t, he, hctl.trans (writeButtons_ctl b s), hatt.trans (writeButtons_attached b s)⟩

/-- Settles O24: the register written is the mask. -/
theorem setAllButtonsReplacesTheFlags : Obligations.SetAllButtonsReplacesTheFlags := fun mask s =>
  exec_next_of_mutate_writeButtons (mutate_setAllButtons mask s)

/-- Settles O25: the register written is the empty set of flags. -/
theorem releaseAllButtonsClearsTheFlags : Obligations.ReleaseAllButtonsClearsTheFlags := fun s =>
  exec_next_of_mutate_writeButtons (mutate_releaseAllButtons s)

end Sys2Proof.Machine
end

section
/-! PROOFS. The packed stick command (spec/45_axis_trigger_commands.md): its four lanes as numbers, and the fields it
leaves (R122). -/

namespace Sys2Proof.Machine

/-- Lane 0 is the lowest byte, so nothing is shifted away. -/
theorem packedLane_zero_toNat (word : Operand) : (packedLane 0 word).toNat = word.toNat % 256 := by
  simpa using packedLane_toNat 0 word

/-- Lane 3 is the highest byte, so its quotient needs no remainder. -/
theorem packedLane_three_toNat (word : Operand) : (packedLane 3 word).toNat = word.toNat / 16777216 := by
  have hlt : word.toNat / 16777216 < 256 := by omega
  exact (packedLane_toNat 3 word).trans (Nat.mod_eq_of_lt hlt)

/-- The packed write replaces the four sticks and nothing else of the fields (R122 (d)). -/
theorem exec_setAllAxesPacked (word : Operand) (s : State) :
    ∃ t, exec (.setAllAxesPacked word) s = .next t ∧
      t.ctl = { s.ctl with
        leftX := packedLane 0 word, leftY := packedLane 1 word,
        rightX := packedLane 2 word, rightY := packedLane 3 word } ∧
      t.attached = s.attached :=
  exec_next (.setAllAxesPacked word) s

/-- Settles O28: the fields by `exec_setAllAxesPacked`, the number of each stick by that of its lane. -/
theorem setAllAxesPackedWritesTheSticks : Obligations.SetAllAxesPackedWritesTheSticks := by
  intro word s
  obtain ⟨t, he, hctl, hatt⟩ := exec_setAllAxesPacked word s
  refine ⟨t, he, ?_, ?_, ?_, ?_, ?_, hatt⟩ <;> rw [hctl]
  · exact packedLane_zero_toNat word
  · exact packedLane_toNat 1 word
  · exact packedLane_toNat 2 word
  · exact packedLane_three_toNat word

end Sys2Proof.Machine
end

section
/-! PROOFS. The directional-pad commands (spec/46_dpad_commands.md): the fields that each of the two paths leaves (R125,
R126), and the axis path right after the compass path (R125 (e)). -/

namespace Sys2Proof.Machine

/-! ## The axis path (R125) -/

theorem dpadAxisValue_toNat (value : Int) :
    ((dpadAxisValue value).toNat : Int) = if 0 ≤ value ∧ value ≤ 255 then value else 128 :=
  failSoft_toNat Config.dpadAxisOorValue value

theorem dpadAxisValue_inRange {value : Int} (h0 : 0 ≤ value) (h255 : value ≤ 255) :
    dpadAxisValue value = BitVec.ofInt 8 value :=
  failSoft_inRange Config.dpadAxisOorValue h0 h255

/-- The pair that `dpad` is derived from holds the x axis just written and the y axis as it was. -/
theorem mutate_setDpadAxis_x_ctl (value : Int) (s : State) :
    (mutate (.setDpadAxis .x value) s).ctl =
      { s.ctl with dpadXAxis := dpadAxisValue value, dpad := fromAxes (dpadAxisValue value) s.ctl.dpadYAxis } := rfl

/-- The pair that `dpad` is derived from holds the y axis just written and the x axis as it was. -/
theorem mutate_setDpadAxis_y_ctl (value : Int) (s : State) :
    (mutate (.setDpadAxis .y value) s).ctl =
      { s.ctl with dpadYAxis := dpadAxisValue value, dpad := fromAxes s.ctl.dpadXAxis (dpadAxisValue value) } := rfl

/-- Settles O29: the command leaves the fields of its mutation, axis by axis, and the byte stored is
`dpadAxisValue_toNat`. -/
theorem setDpadAxisDerivesTheDpad : Obligations.SetDpadAxisDerivesTheDpad := by
  intro which value s
  obtain ⟨t, he, hctl, hatt⟩ := exec_next (.setDpadAxis which value) s
  refine ⟨t, he, hatt, dpadAxisValue value, dpadAxisValue_toNat value, ?_, ?_⟩
  · rintro rfl
    exact hctl.trans (mutate_setDpadAxis_x_ctl value s)
  · rintro rfl
    exact hctl.trans (mutate_setDpadAxis_y_ctl value s)

/-! ## The compass path (R126) -/

theorem mutate_setDpadCompass_ctl (direction : Int) (s : State) :
    (mutate (.setDpadCompass direction) s).ctl = writeCompass (fromCompass direction) s.ctl := rfl

/-- Settles O30: the fields are `writeCompass` of the direction's code, and the code's number is that of R90 (O8). -/
theorem setDpadCompassBackFillsTheAxes : Obligations.SetDpadCompassBackFillsTheAxes := by
  intro direction s
  obtain ⟨t, he, hctl, hatt⟩ := exec_next (.setDpadCompass direction) s
  rw [mutate_setDpadCompass_ctl] at hctl
  obtain ⟨hcode, -⟩ := fromCompassPassesIndicesThrough direction
  refine ⟨t, he, ?_, ?_, ?_, hatt⟩ <;> rw [hctl]
  · exact hcode
  · rfl
  · rfl

/-! ## The axis path after the compass path (R125 (e)) -/

/-- Settles O39: the other axis is as the compass command left it, and that is its canonical pair's. -/
theorem axisAfterCompassUsesTheBackFill : Obligations.AxisAfterCompassUsesTheBackFill := by
  intro d value s t u h0 h255 ht
  obtain ⟨htctl, -⟩ := exec_fields ht
  rw [mutate_setDpadCompass_ctl] at htctl
  constructor
  · intro hu
    obtain ⟨huctl, -⟩ := exec_fields hu
    rw [huctl, mutate_setDpadAxis_x_ctl, htctl, dpadAxisValue_inRange h0 h255, writeCompass_y]
  · intro hu
    obtain ⟨huctl, -⟩ := exec_fields hu
    rw [huctl, mutate_setDpadAxis_y_ctl, htctl, dpadAxisValue_inRange h0 h255, writeCompass_x]

end Sys2Proof.Machine
end

section
/-! PROOFS. Exceptions (spec/60_exceptions.md): what the sink's answer does to the command in progress (R133), the one
move of the environment that stops the machine with a fault (R130, R135; log 4), and the model's view of the receiver
after each answer (R133, R156; log 27). -/

namespace Sys2Proof.Machine

/-! ## The answer completes the command (R133) -/

/-- Settles O43, by `step_answer_busy`: completion and the record of the hand-over write these four fields by
definition. -/
theorem answerCompletesTheCommand : Obligations.AnswerCompletesTheCommand := by
  intro s c frame a rest hb hm
  rw [step_answer_busy hm hb]
  rfl

/-! ## No fault of the block's own (R130, R135) -/

theorem exec_ne_fault (i : Instr) (s : State) (r : Fault) : exec i s ≠ .fault r := by
  obtain ⟨t, he, -, -⟩ := exec_next i s
  simp [he]

/-- Serving a producer ends in a next state or, on a reserved word, in a refusal. -/
theorem stepServe_ne_fault (p : Nat) (s : State) (r : Fault) : stepServe p s ≠ .fault r := by
  rcases accept_cases p s with hn | ⟨w, rest, received, -, ha⟩
  · simp [stepServe, hn]
  · cases hd : decode w with
    | command i => simpa [stepServe, ha, hd] using exec_ne_fault i (accepted p rest received s) r
    | reserved why => simp [stepServe, ha, hd]

/-- A step that faults is an answer to an idle block: on every other move it is of another kind. -/
theorem answer_of_step_fault {s : State} {r : Fault} (h : step s = .fault r) :
    s.activity = .idle ∧ ∃ a rest, s.moves = .answer a :: rest := by
  rcases hm : s.moves with _ | ⟨m, rest⟩
  · simp [step_of_no_move hm] at h
  · cases m with
    | quiet => simp [step_quiet hm] at h
    | reset => simp [step_reset hm] at h
    | answer a =>
      cases hb : s.activity with
      | idle => exact ⟨rfl, a, rest, rfl⟩
      | transmitting c f => simp [step_answer_busy hm hb] at h
    | serve p =>
      cases hb : s.activity with
      | idle => exact absurd (step_serve_idle hm hb ▸ h) (stepServe_ne_fault p _ r)
      | transmitting c f => simp [step_serve_busy hm hb] at h

/-- Settles O44: `answer_of_step_fault` one way (`Fault` has one constructor), `step_answer_idle` the other. -/
theorem onlyAStrayAnswerFaults : Obligations.OnlyAStrayAnswerFaults := by
  intro s r
  constructor
  · intro h
    obtain ⟨hi, hm⟩ := answer_of_step_fault h
    cases r
    exact ⟨rfl, hi, hm⟩
  · rintro ⟨rfl, hi, a, rest, hm⟩
    exact step_answer_idle hm hi

/-! ## The model's view of the receiver (R133, R156; log 27) -/

section
variable {s t : State} {f : Frame}

theorem lastReceived_of_sink_append_ok (h : t.sink = s.sink ++ [⟨f, .ok⟩]) : lastReceived t = some f := by
  simp [lastReceived, h]

theorem lastReceived_of_sink_append_fail (h : t.sink = s.sink ++ [⟨f, .fail⟩]) :
    lastReceived t = lastReceived s := by
  simp [lastReceived, h]

/-- A frame that a step adds to the sink's record is that of the state it leaves. -/
theorem step_sink_frame {a : SinkAnswer} (hinv : Inv s) (hstep : step s = .next t)
    (h : t.sink = s.sink ++ [⟨f, a⟩]) : f = encodeFrame t.ctl := by
  rcases step_sink hinv hstep with hsame | ⟨a', hadded⟩
  · simp [h] at hsame
  · have hlast : (⟨f, a⟩ : HandOver) = ⟨encodeFrame t.ctl, a'⟩ := by simpa [h] using hadded
    exact congrArg HandOver.frame hlast

end

/-- Settles O49: the view follows the sink's record, and the frame recorded is the present state's by
`step_sink_frame`. -/
theorem acceptedFrameMakesTheReceiverCurrent : Obligations.AcceptedFrameMakesTheReceiverCurrent := by
  intro s t frame hinv hstep
  constructor
  · intro hok
    rw [lastReceived_of_sink_append_ok hok, step_sink_frame hinv hstep hok]
  · exact lastReceived_of_sink_append_fail

end Sys2Proof.Machine
end

section
/-! PROOFS. Reset and the end of a run (spec/70_reset_and_hazards.md): a run is cut exactly by resets (R150), and an
issued command completes unless a reset abandons it or the sink never answers it (R150 (c), R167). -/

namespace Sys2Proof.Machine

/-! ## The first step of a run -/

theorem core_run_succ_of_step {s t : State} (h : step s = .next t) (k : Nat) :
    Host.Core.run Sys2Proof.core (k + 1) s = Host.Core.run Sys2Proof.core k t := by
  rw [core_run_succ, h]

theorem step_of_core_run_succ {k : Nat} {s t : State} (hrun : Host.Core.run Sys2Proof.core (k + 1) s = .next t) :
    ∃ u, step s = .next u ∧ Host.Core.run Sys2Proof.core k u = .next t := by
  cases hu : step s with
  | next u => exact ⟨u, rfl, core_run_succ_of_step hu k ▸ hrun⟩
  | fault r => simp [core_run_succ, hu] at hrun
  | refused r => simp [core_run_succ, hu] at hrun

/-! ## The account of each producer

A command that is issued leaves its program and comes back as a status.  Programs and statuses together, the command in
progress included, lose a command only when a reset abandons it. -/

/-- For each producer, by its number, how many commands it has still to issue or has seen completed. -/
def account (ps : List Producer) (q : Nat) : Nat :=
  ps[q]?.elim 0 fun p => p.received.length + p.program.length

theorem account_of_getElem? {ps : List Producer} {q : Nat} {p : Producer} (h : ps[q]? = some p) :
    account ps q = p.received.length + p.program.length := by
  simp [account, h]

/-- A delivered status enters the account of its producer. -/
theorem account_deliver {p : Nat} {ps : List Producer} (hp : p < ps.length) (st : Status) :
    account (deliver p st ps) = account ps + Pi.single p 1 := by
  funext q
  by_cases hq : p = q
  · subst hq
    have hbefore : ps[p]? = some ps[p] := List.getElem?_eq_getElem hp
    have hafter : (deliver p st ps)[p]? = some (ps[p].receive st) := by rw [getElem?_deliver, if_pos rfl, hbefore]; rfl
    rw [Pi.add_apply, Pi.single_eq_same, account_of_getElem? hafter, account_of_getElem? hbefore]
    simp only [Producer.receive, List.length_append, List.length_singleton]
    omega
  · simp [account, getElem?_deliver, hq]

/-- An accepted command leaves the account of its producer. -/
theorem account_accept {p : Nat} {ps : List Producer} {w : CommandWord} {rest : List CommandWord}
    {received : List Status} (hp : ps[p]? = some ⟨w :: rest, received⟩) :
    account (ps.set p ⟨rest, received⟩) + Pi.single p 1 = account ps := by
  have hlt : p < ps.length := (List.getElem?_eq_some_iff.mp hp).1
  funext q
  by_cases hq : p = q
  · subst hq
    rw [Pi.add_apply, Pi.single_eq_same, account_of_getElem? (List.getElem?_set_self hlt), account_of_getElem? hp,
      List.length_cons, Nat.add_assoc]
  · simp [account, hq]

/-- Producers as many as before have the account they had exactly when each has completed what it issued. -/
theorem everyCommandCompleted_iff_account_eq {s t : State} (hlen : t.producers.length = s.producers.length) :
    everyCommandCompleted s t ↔ account t.producers = account s.producers := by
  rw [everyCommandCompleted, List.forall₂_iff_get]
  constructor
  · rintro ⟨-, heq⟩
    funext q
    by_cases hq : q < s.producers.length
    · simpa [account, hq, hlen] using heq q hq (hlen ▸ hq)
    · simp [account, hq, hlen]
  · intro heq
    refine ⟨hlen.symm, fun q hs ht => ?_⟩
    simpa [account, hs, ht] using congrFun heq q

/-- The accounts with the command in progress counted to its producer. -/
def accounted (s : State) : Nat → Nat := account s.producers + Pi.single s.issuer (commandsInProgress s)

theorem accounted_of_idle {s : State} (hi : s.activity = .idle) : accounted s = account s.producers := by
  simp [accounted, commandsInProgress_of_idle hi]

theorem accounted_of_busy {s : State} {c : Instr} {f : Frame} (hb : s.activity = .transmitting c f) :
    accounted s = account s.producers + Pi.single s.issuer 1 := by
  rw [accounted, commandsInProgress_of_busy hb]

theorem account_lt_accounted_of_busy {s : State} {c : Instr} {f : Frame} (hb : s.activity = .transmitting c f) :
    account s.producers < accounted s := by
  rw [accounted_of_busy hb]
  exact lt_add_of_pos_right _ (Pi.single_pos.mpr Nat.one_pos)

theorem account_le_accounted (s : State) : account s.producers ≤ accounted s := le_self_add

theorem accounted_complete {s : State} (hp : s.issuer < s.producers.length) (st : Status) :
    accounted (complete st s) = account s.producers + Pi.single s.issuer 1 :=
  (accounted_of_idle rfl).trans (account_deliver hp st)

/-- A command enters the account of its producer, completed or in progress. -/
theorem exec_accounted {i : Instr} {s t : State} (hp : s.issuer < s.producers.length) (he : exec i s = .next t) :
    accounted t = account s.producers + Pi.single s.issuer 1 := by
  have hp' : (mutate i s).issuer < (mutate i s).producers.length := by rwa [mutate_issuer, mutate_producers]
  rw [← mutate_issuer i s, ← mutate_producers i s]
  rcases exec_cases he with ⟨-, rfl⟩ | ⟨-, -, rfl⟩ | ⟨-, -, a, rest, -, rfl⟩ | ⟨-, -, -, rfl⟩
  · exact accounted_complete hp' .ok
  · exact accounted_complete hp' .fail
  · exact accounted_complete (s := recordHandOver _ a (State.withMoves rest _)) hp' (statusOf a)
  · exact accounted_of_busy rfl

/-! ## What a step does to the accounts -/

/-- The producer of a command in progress exists. -/
def issuerPresent (s : State) : Prop := s.activity ≠ .idle → s.issuer < s.producers.length

theorem issuerPresent_of_idle {s : State} (hi : s.activity = .idle) : issuerPresent s := fun hn => absurd hi hn

theorem issuerPresent_step {s t : State} (hs : issuerPresent s) (h : step s = .next t) : issuerPresent t := by
  obtain ⟨hlen, -⟩ := stepTouchesOnlyTheIssuer s t h
  rcases step_cases h with ⟨-, rfl⟩ | ⟨rest, -, rfl⟩ | ⟨rest, -, rfl⟩ | ⟨a, rest, c, f, -, -, rfl⟩ |
    ⟨p, rest, -, rfl⟩ | ⟨p, moves, w, rest, received, i, -, -, hp, -, he⟩
  · exact hs
  · exact hs
  · exact issuerPresent_of_idle rfl
  · exact issuerPresent_of_idle rfl
  · exact hs
  · obtain ⟨hissuer, -⟩ := exec_producers he
    intro _
    rw [hissuer, hlen]
    exact (List.getElem?_eq_some_iff.mp hp).1

/-- From `s` to `t` the accounts are kept and no reset abandoned a command, or a reset abandoned one and they have
shrunk. -/
def keptOrAbandoned (s t : State) : Prop :=
  (accounted t = accounted s ∧ commandsAbandoned t = commandsAbandoned s) ∨
  (accounted t < accounted s ∧ commandsAbandoned s < commandsAbandoned t)

theorem keptOrAbandoned_refl (s : State) : keptOrAbandoned s s := .inl ⟨rfl, rfl⟩

theorem keptOrAbandoned_trans {s t u : State} (h : keptOrAbandoned s t) (h' : keptOrAbandoned t u) :
    keptOrAbandoned s u := by
  rcases h with ⟨hkept, hsame⟩ | ⟨hless, hmore⟩ <;> rcases h' with ⟨hkept', hsame'⟩ | ⟨hless', hmore'⟩
  · exact .inl ⟨hkept'.trans hkept, hsame'.trans hsame⟩
  · exact .inr ⟨hkept ▸ hless', hsame ▸ hmore'⟩
  · exact .inr ⟨hkept' ▸ hless, hsame' ▸ hmore⟩
  · exact .inr ⟨hless'.trans hless, hmore.trans hmore'⟩

theorem keptOrAbandoned_resetBlock (s : State) (ms : List EnvMove) :
    keptOrAbandoned s (resetBlock (s.withMoves ms)) := by
  obtain ⟨-, -, -, hcount⟩ := resetBlock_counts s ms
  have hreset : accounted (resetBlock (s.withMoves ms)) = account s.producers := accounted_of_idle rfl
  rw [keptOrAbandoned, hreset, hcount]
  cases ha : s.activity with
  | idle => exact .inl ⟨(accounted_of_idle ha).symm, by rw [commandsInProgress_of_idle ha, Nat.add_zero]⟩
  | transmitting c f =>
    exact .inr ⟨account_lt_accounted_of_busy ha, by rw [commandsInProgress_of_busy ha]; exact Nat.lt_succ_self _⟩

theorem commandsAbandoned_congr {s t : State} (h : t.cuts = s.cuts) : commandsAbandoned t = commandsAbandoned s := by
  simp only [commandsAbandoned, abandonedFrames, h]

/-- An answer puts a status where the command in progress was, an accepted command is completed or in progress, and only
a reset abandons. -/
theorem step_keptOrAbandoned {s t : State} (hs : issuerPresent s) (h : step s = .next t) : keptOrAbandoned s t := by
  rcases step_cases h with ⟨-, rfl⟩ | ⟨rest, -, rfl⟩ | ⟨rest, -, rfl⟩ | ⟨a, rest, c, f, -, hb, rfl⟩ |
    ⟨p, rest, -, rfl⟩ | ⟨p, moves, w, rest, received, i, -, hi, hp, -, he⟩
  · exact keptOrAbandoned_refl _
  · exact keptOrAbandoned_refl s
  · exact keptOrAbandoned_resetBlock s rest
  · have hissuer : s.issuer < s.producers.length := hs (by simp [hb])
    have hcomplete : accounted (complete (statusOf a) (recordHandOver f a (s.withMoves rest))) = _ :=
      accounted_complete (s := recordHandOver f a (s.withMoves rest)) hissuer (statusOf a)
    exact .inl ⟨hcomplete.trans (accounted_of_busy hb).symm, commandsAbandoned_congr rfl⟩
  · exact keptOrAbandoned_refl s
  · have hlt : p < s.producers.length := (List.getElem?_eq_some_iff.mp hp).1
    have haccounted : accounted t = account (s.producers.set p ⟨rest, received⟩) + Pi.single p 1 :=
      exec_accounted (by simpa using hlt) he
    have hcuts : t.cuts = s.cuts := by simpa using exec_cuts he
    exact .inl ⟨(haccounted.trans (account_accept hp)).trans (accounted_of_idle hi).symm,
      commandsAbandoned_congr hcuts⟩

/-! ## Completed or abandoned (R150 (c), R167) -/

theorem run_producers_length {k : Nat} {s t : State} (hrun : Host.Core.run Sys2Proof.core k s = .next t) :
    t.producers.length = s.producers.length :=
  run_relates (keeps := fun _ => True) (related := fun s t => t.producers.length = s.producers.length)
    (fun _ => rfl) (fun s t _ h => ⟨trivial, fun _ hu => hu.trans (stepTouchesOnlyTheIssuer s t h).1⟩) k trivial hrun

theorem run_keptOrAbandoned {k : Nat} {s t : State} (hs : issuerPresent s)
    (hrun : Host.Core.run Sys2Proof.core k s = .next t) : keptOrAbandoned s t :=
  run_relates keptOrAbandoned_refl
    (fun _ _ hs h => ⟨issuerPresent_step hs h, fun _ => keptOrAbandoned_trans (step_keptOrAbandoned hs h)⟩) k hs hrun

/-- Of an idle start: a command in progress, or one abandoned, is missing from the accounts of the producers. -/
theorem account_eq_iff_of_keptOrAbandoned {s t : State} (hi : s.activity = .idle) (h : keptOrAbandoned s t) :
    account t.producers = account s.producers ↔
      t.activity = .idle ∧ commandsAbandoned t = commandsAbandoned s := by
  rw [keptOrAbandoned, accounted_of_idle hi] at h
  rcases h with ⟨hkept, hsame⟩ | ⟨hless, hmore⟩
  · rw [← hkept, and_iff_left hsame]
    cases ha : t.activity with
    | idle => exact iff_of_true (accounted_of_idle ha).symm rfl
    | transmitting c f => exact iff_of_false (account_lt_accounted_of_busy ha).ne (by simp)
  · exact iff_of_false ((account_le_accounted t).trans_lt hless).ne fun ⟨_, hsame⟩ => hmore.ne' hsame

theorem everyCommandCompleted_iff {k : Nat} {s t : State} (hi : s.activity = .idle)
    (hrun : Host.Core.run Sys2Proof.core k s = .next t) :
    everyCommandCompleted s t ↔ t.activity = .idle ∧ commandsAbandoned t = commandsAbandoned s :=
  (everyCommandCompleted_iff_account_eq (run_producers_length hrun)).trans
    (account_eq_iff_of_keptOrAbandoned hi (run_keptOrAbandoned (issuerPresent_of_idle hi) hrun))

/-- Settles O59, by `everyCommandCompleted_iff`; a run that is not cut has abandoned nothing. -/
theorem issuedCommandsCompleteUnlessAbandoned : Obligations.IssuedCommandsCompleteUnlessAbandoned := by
  intro k s t hi hrun
  have hcompleted := everyCommandCompleted_iff hi hrun
  refine ⟨hcompleted, ?_⟩
  constructor
  · rintro ⟨hissued, -, hidle, huncut⟩
    exact ⟨hissued, hidle, huncut⟩
  · rintro ⟨hissued, hidle, huncut⟩
    have hcuts : t.cuts = s.cuts := not_not.mp huncut
    exact ⟨hissued, hcompleted.mpr ⟨hidle, commandsAbandoned_congr hcuts⟩, hidle, huncut⟩

/-! ## Cut runs (R150, R167) -/

/-- The record of cut runs only grows. -/
theorem run_cuts_prefix {k : Nat} {s t : State} (hrun : Host.Core.run Sys2Proof.core k s = .next t) :
    s.cuts <+: t.cuts := by
  refine run_relates (keeps := fun _ => True) (related := fun s t => s.cuts <+: t.cuts)
    (fun _ => List.prefix_rfl) (fun s t _ h => ⟨trivial, fun u hu => ?_⟩) k trivial hrun
  rcases step_cuts h with ⟨rest, -, hcuts⟩ | ⟨-, hcuts⟩
  · exact (hcuts ▸ List.prefix_append _ _ : s.cuts <+: t.cuts).trans hu
  · exact hcuts ▸ hu

/-- Among the first `k` moves of the run from `s` is a reset. -/
def resetComes (k : Nat) (s : State) : Prop :=
  ∃ (j : Nat) (u : State) (rest : List EnvMove),
    j < k ∧ Host.Core.run Sys2Proof.core j s = .next u ∧ u.moves = .reset :: rest

theorem not_resetComes_zero (s : State) : ¬ resetComes 0 s := fun ⟨_, _, _, hj, _⟩ => Nat.not_lt_zero _ hj

theorem resetComes_succ {s t : State} (h : step s = .next t) (k : Nat) :
    resetComes (k + 1) s ↔ (∃ rest, s.moves = .reset :: rest) ∨ resetComes k t := by
  constructor
  · rintro ⟨_ | j, u, rest, hj, hrun, hm⟩
    · cases hrun
      exact .inl ⟨rest, hm⟩
    · exact .inr ⟨j, u, rest, Nat.lt_of_succ_lt_succ hj, core_run_succ_of_step h j ▸ hrun, hm⟩
  · rintro (⟨rest, hm⟩ | ⟨j, u, rest, hj, hrun, hm⟩)
    · exact ⟨0, s, rest, k.succ_pos, rfl, hm⟩
    · exact ⟨j + 1, u, rest, Nat.succ_lt_succ hj, (core_run_succ_of_step h j).trans hrun, hm⟩

/-- By induction on the steps: a reset adds to the record, which no later step shortens, and no other step touches
it. -/
theorem runCut_iff_resetComes {k : Nat} {s t : State} (hrun : Host.Core.run Sys2Proof.core k s = .next t) :
    runCut s t ↔ resetComes k s := by
  induction k generalizing s with
  | zero =>
    cases hrun
    exact iff_of_false (fun h => h rfl) (not_resetComes_zero _)
  | succ k ih =>
    obtain ⟨u, hu, hrun⟩ := step_of_core_run_succ hrun
    rw [resetComes_succ hu]
    rcases step_cuts hu with ⟨rest, hm, hcuts⟩ | ⟨hm, hcuts⟩
    · refine iff_of_true (fun hsame => ?_) (.inl ⟨rest, hm⟩)
      have hgrown := (run_cuts_prefix hrun).length_le
      simp [hcuts, hsame] at hgrown
    · rw [or_iff_right fun ⟨rest, h⟩ => hm rest h, ← ih hrun, runCut, runCut, hcuts]

/-- Settles O58, by `run_cuts_prefix` and `runCut_iff_resetComes`. -/
theorem runsAreCutExactlyByResets : Obligations.RunsAreCutExactlyByResets :=
  fun _ _ _ hrun => ⟨run_cuts_prefix hrun, runCut_iff_resetComes hrun⟩

end Sys2Proof.Machine
end

section
/-! PROOFS. The command word (spec/30_encoding.md): which commands each operand form reads and from which fields (R63 to
R69), and that encoding and decoding undo one another (R72). -/

namespace Sys2Proof

/-! ## What each operand form reads (R63 to R69) -/

/-- The bits from `k` up are clear exactly below 2^k. -/
theorem extractLsb'_eq_zero_iff {k n : Nat} (x : BitVec (k + n)) : x.extractLsb' k n = 0 ↔ x.toNat < 2 ^ k := by
  have hlt : x.toNat / 2 ^ k < 2 ^ n := Nat.div_lt_of_lt_mul (Nat.pow_add 2 k n ▸ x.isLt)
  rw [← BitVec.toNat_inj, BitVec.extractLsb'_toNat, Nat.shiftRight_eq_div_pow, Nat.mod_eq_of_lt hlt]
  exact Nat.div_eq_zero_iff_lt (Nat.two_pow_pos k)

theorem pressedBits_eq_zero_iff (opd : Operand) : opd.extractLsb' 1 31 = 0 ↔ opd.toNat < 2 :=
  extractLsb'_eq_zero_iff (k := 1) (n := 31) opd

theorem maskBits_eq_zero_iff (opd : Operand) : opd.extractLsb' 14 18 = 0 ↔ opd.toNat < 16384 :=
  extractLsb'_eq_zero_iff (k := 14) (n := 18) opd

section
variable {i : Instr} {sel : BitVec 4} {opd : Operand}

theorem decodeNone_eq_command_iff {j : Instr} :
    decodeNone j sel opd = .command i ↔ i = j ∧ sel = 0 ∧ opd = 0 := by
  unfold decodeNone
  split_ifs with hsel hopd
  · simp only [hsel, hopd, and_self, and_true, Decoded.command.injEq, eq_comm]
  · simp only [hopd, and_false]
  · simp only [hsel, false_and, and_false]

theorem decodeButton_eq_command_iff :
    decodeButton sel opd = .command i ↔
      ∃ index pressed, i = .setButton index pressed ∧ i.sel = sel ∧ i.operand = opd := by
  constructor
  · intro h
    unfold decodeButton at h
    split_ifs at h with hsel hopd
    cases h
    rw [pressedBits_eq_zero_iff] at hopd
    have hbit : opd = 0#32 ∨ opd = 1#32 := by bv_omega
    exact ⟨_, _, rfl, by simp [Instr.sel], by rcases hbit with rfl | rfl <;> rfl⟩
  · rintro ⟨index, pressed, rfl, rfl, rfl⟩
    have hsel : (Instr.setButton index pressed).sel.toNat = index.val := Nat.mod_eq_of_lt (by omega)
    have hopd : (Instr.setButton index pressed).operand.extractLsb' 1 31 = 0 := by
      rw [pressedBits_eq_zero_iff]
      cases pressed <;> exact Nat.le_of_ble_eq_true rfl
    have hbit : (Instr.setButton index pressed).operand.getLsbD 0 = pressed := by
      cases pressed <;> simp [Instr.operand]
    simp only [decodeButton, hsel, hopd, hbit, index.isLt, dite_true, if_true]

theorem decodeMask_eq_command_iff :
    decodeMask sel opd = .command i ↔ ∃ mask, i = .setAllButtons mask ∧ sel = 0 ∧ i.operand = opd := by
  constructor
  · intro h
    unfold decodeMask at h
    split_ifs at h with hsel hopd
    cases h
    rw [maskBits_eq_zero_iff] at hopd
    refine ⟨_, rfl, hsel, BitVec.eq_of_toNat_eq ?_⟩
    simp only [Instr.operand, BitVec.toNat_setWidth, BitVec.extractLsb'_toNat, Nat.shiftRight_zero]
    omega
  · rintro ⟨mask, rfl, rfl, rfl⟩
    have hopd : (Instr.setAllButtons mask).operand.extractLsb' 14 18 = 0 := by
      rw [maskBits_eq_zero_iff, Instr.operand, BitVec.toNat_setWidth]
      omega
    have hmask : (Instr.setAllButtons mask).operand.extractLsb' 0 14 = mask := by
      apply BitVec.eq_of_toNat_eq
      simp only [Instr.operand, BitVec.extractLsb'_toNat, BitVec.toNat_setWidth, Nat.shiftRight_zero]
      omega
    simp only [decodeMask, hopd, hmask, if_true]

theorem decodeSetAxis_eq_command_iff :
    decodeSetAxis sel opd = .command i ↔ ∃ which, i = .setAxis which (sext32 opd) ∧ stickAxisOf sel = some which := by
  cases h : stickAxisOf sel <;> simp [decodeSetAxis, h, eq_comm]

theorem decodeSetTrigger_eq_command_iff :
    decodeSetTrigger sel opd = .command i ↔
      ∃ which, i = .setTrigger which (sext32 opd) ∧ triggerSideOf sel = some which := by
  cases h : triggerSideOf sel <;> simp [decodeSetTrigger, h, eq_comm]

theorem decodeSetDpadAxis_eq_command_iff :
    decodeSetDpadAxis sel opd = .command i ↔
      ∃ which, i = .setDpadAxis which (sext32 opd) ∧ dpadAxisOf sel = some which := by
  cases h : dpadAxisOf sel <;> simp [decodeSetDpadAxis, h, eq_comm]

theorem decodeCompass_eq_command_iff :
    decodeCompass sel opd = .command i ↔ i = .setDpadCompass (sext32 opd) ∧ sel = 0 := by
  unfold decodeCompass
  split_ifs with hsel
  · simp only [hsel, and_true, Decoded.command.injEq, eq_comm]
  · simp only [hsel, and_false]

theorem decodePacked_eq_command_iff :
    decodePacked sel opd = .command i ↔ i = .setAllAxesPacked opd ∧ sel = 0 := by
  unfold decodePacked
  split_ifs with hsel
  · simp only [hsel, and_true, Decoded.command.injEq, eq_comm]
  · simp only [hsel, and_false]

end

/-! ## Encoding and decoding undo one another (R72) -/

theorem encode_eq_of_fields {i : Instr} {w : CommandWord} (hop : (opcodeOf w).toNat = i.opcode.toNat)
    (hsel : i.sel = selOf w) (hopd : i.operand = operandOf w) : encode i = w := by
  rw [encode, ← BitVec.eq_of_toNat_eq hop, hsel, hopd, packWord_fields]

/-- Settles O2: the fields of the word are those of the command, and its form reads the command back from them. -/
theorem decodeInvertsEncode : Obligations.DecodeInvertsEncode := by
  intro i hi
  simp only [decode, encode, opcodeOf_packWord, selOf_packWord, operandOf_packWord]
  cases i with
  | attach => exact decodeNone_eq_command_iff.mpr ⟨rfl, rfl, rfl⟩
  | detach => exact decodeNone_eq_command_iff.mpr ⟨rfl, rfl, rfl⟩
  | setButton index pressed => exact decodeButton_eq_command_iff.mpr ⟨index, pressed, rfl, rfl, rfl⟩
  | setAllButtons mask => exact decodeMask_eq_command_iff.mpr ⟨mask, rfl, rfl, rfl⟩
  | releaseAllButtons => exact decodeNone_eq_command_iff.mpr ⟨rfl, rfl, rfl⟩
  | setAxis which value =>
    exact decodeSetAxis_eq_command_iff.mpr ⟨which, by rw [Instr.operand, sext32_operandOfInt hi], stickAxisOf_sel which⟩
  | setTrigger which value =>
    exact decodeSetTrigger_eq_command_iff.mpr
      ⟨which, by rw [Instr.operand, sext32_operandOfInt hi], triggerSideOf_sel which⟩
  | setDpadAxis which value =>
    exact decodeSetDpadAxis_eq_command_iff.mpr
      ⟨which, by rw [Instr.operand, sext32_operandOfInt hi], dpadAxisOf_sel which⟩
  | setDpadCompass direction =>
    exact decodeCompass_eq_command_iff.mpr ⟨by rw [Instr.operand, sext32_operandOfInt hi], rfl⟩
  | setAllAxesPacked word => exact decodePacked_eq_command_iff.mpr ⟨rfl, rfl⟩

/-- Settles O3: the form that the opcode selects reads a command whose fields are those of the word. -/
theorem encodeInvertsDecode : Obligations.EncodeInvertsDecode := by
  intro w i h
  unfold decode at h
  split at h
  case h_1 hop | h_2 hop | h_5 hop =>
    obtain ⟨rfl, hsel, hopd⟩ := decodeNone_eq_command_iff.mp h
    exact ⟨rfl, encode_eq_of_fields hop hsel.symm hopd.symm⟩
  case h_3 hop =>
    obtain ⟨index, pressed, rfl, hsel, hopd⟩ := decodeButton_eq_command_iff.mp h
    exact ⟨rfl, encode_eq_of_fields hop hsel hopd⟩
  case h_4 hop =>
    obtain ⟨mask, rfl, hsel, hopd⟩ := decodeMask_eq_command_iff.mp h
    exact ⟨rfl, encode_eq_of_fields hop hsel.symm hopd⟩
  case h_6 hop =>
    obtain ⟨which, rfl, hsel⟩ := decodeSetAxis_eq_command_iff.mp h
    exact ⟨fitsOperand_sext32 _, encode_eq_of_fields hop (stickAxisSel_of hsel) (operandOfInt_sext32 _)⟩
  case h_7 hop =>
    obtain ⟨which, rfl, hsel⟩ := decodeSetTrigger_eq_command_iff.mp h
    exact ⟨fitsOperand_sext32 _, encode_eq_of_fields hop (triggerSideSel_of hsel) (operandOfInt_sext32 _)⟩
  case h_8 hop =>
    obtain ⟨which, rfl, hsel⟩ := decodeSetDpadAxis_eq_command_iff.mp h
    exact ⟨fitsOperand_sext32 _, encode_eq_of_fields hop (dpadAxisSel_of hsel) (operandOfInt_sext32 _)⟩
  case h_9 hop =>
    obtain ⟨rfl, hsel⟩ := decodeCompass_eq_command_iff.mp h
    exact ⟨fitsOperand_sext32 _, encode_eq_of_fields hop hsel.symm (operandOfInt_sext32 _)⟩
  case h_10 hop =>
    obtain ⟨rfl, hsel⟩ := decodePacked_eq_command_iff.mp h
    exact ⟨rfl, encode_eq_of_fields hop hsel.symm rfl⟩
  case h_11 => cases h

end Sys2Proof
end

section
/-! PROOFS. Reserved words and the opcode map (spec/30_encoding.md): the cases of R70 are the words that decode to no
command, `Decode` on words written as numbers (R72), the rows of R62, and what an idle block refuses (D9). -/

namespace Sys2Proof

/-! ## The reserved words (R70) -/

theorem reserved_iff_instr?_eq_none (d : Decoded) : (∃ why, d = .reserved why) ↔ d.instr? = none := by
  cases d <;> simp [Decoded.instr?]

theorem eq_zero_iff_toNat {n : Nat} (x : BitVec n) : x = 0 ↔ x.toNat = 0 := by
  rw [← BitVec.toNat_inj, BitVec.ofNat_eq_ofNat, BitVec.toNat_zero]

section
variable (sel : BitVec 4) (opd : Operand)

theorem decodeNone_instr?_eq_none_iff (i : Instr) :
    (decodeNone i sel opd).instr? = none ↔ sel.toNat ≠ 0 ∨ opd.toNat ≠ 0 := by
  simp only [decodeNone, eq_zero_iff_toNat]
  split_ifs with hsel hopd <;> simp [Decoded.instr?, *]

theorem decodeButton_instr?_eq_none_iff :
    (decodeButton sel opd).instr? = none ↔ 14 ≤ sel.toNat ∨ 2 ≤ opd.toNat := by
  simp only [decodeButton, pressedBits_eq_zero_iff]
  split_ifs <;> simp only [Decoded.instr?, reduceCtorEq, false_iff, true_iff] <;> omega

theorem decodeMask_instr?_eq_none_iff :
    (decodeMask sel opd).instr? = none ↔ sel.toNat ≠ 0 ∨ 16384 ≤ opd.toNat := by
  simp only [decodeMask, maskBits_eq_zero_iff, eq_zero_iff_toNat sel]
  split_ifs <;> simp only [Decoded.instr?, reduceCtorEq, false_iff, true_iff] <;> omega

theorem decodeSetAxis_instr?_eq_none_iff : (decodeSetAxis sel opd).instr? = none ↔ 4 ≤ sel.toNat := by
  rw [← stickAxisOf_none]
  cases h : stickAxisOf sel <;> simp [decodeSetAxis, h, Decoded.instr?]

theorem decodeSetTrigger_instr?_eq_none_iff : (decodeSetTrigger sel opd).instr? = none ↔ 2 ≤ sel.toNat := by
  rw [← triggerSideOf_none]
  cases h : triggerSideOf sel <;> simp [decodeSetTrigger, h, Decoded.instr?]

theorem decodeSetDpadAxis_instr?_eq_none_iff : (decodeSetDpadAxis sel opd).instr? = none ↔ 2 ≤ sel.toNat := by
  rw [← dpadAxisOf_none]
  cases h : dpadAxisOf sel <;> simp [decodeSetDpadAxis, h, Decoded.instr?]

theorem decodeCompass_instr?_eq_none_iff : (decodeCompass sel opd).instr? = none ↔ sel.toNat ≠ 0 := by
  simp only [decodeCompass, eq_zero_iff_toNat]
  split_ifs with h <;> simp [Decoded.instr?, h]

theorem decodePacked_instr?_eq_none_iff : (decodePacked sel opd).instr? = none ↔ sel.toNat ≠ 0 := by
  simp only [decodePacked, eq_zero_iff_toNat]
  split_ifs with h <;> simp [Decoded.instr?, h]

end

/-- The cases (a) to (i) of R70, opcode by opcode, on the three fields as numbers. -/
def reservedFields (op sel opd : Nat) : Prop :=
  match op with
  | 0 => sel ≠ 0 ∨ opd ≠ 0
  | 1 => sel ≠ 0 ∨ opd ≠ 0
  | 2 => 14 ≤ sel ∨ 2 ≤ opd
  | 3 => sel ≠ 0 ∨ 16384 ≤ opd
  | 4 => sel ≠ 0 ∨ opd ≠ 0
  | 5 => 4 ≤ sel
  | 6 => 2 ≤ sel
  | 7 => 2 ≤ sel
  | 8 => sel ≠ 0
  | 9 => sel ≠ 0
  | _ => True

theorem reservedFields_of_ten_le {op : Nat} (hop : 10 ≤ op) (sel opd : Nat) : reservedFields op sel opd := by
  obtain ⟨k, rfl⟩ := Nat.exists_eq_add_of_le' hop
  trivial

/-- The cases of R70 in the order that the spec lists them. -/
theorem reservedFields_iff (op sel opd : Nat) :
    reservedFields op sel opd ↔
      10 ≤ op ∨
      ((op = 0 ∨ op = 1 ∨ op = 3 ∨ op = 4 ∨ op = 8 ∨ op = 9) ∧ sel ≠ 0) ∨
      ((op = 0 ∨ op = 1 ∨ op = 4) ∧ opd ≠ 0) ∨
      (op = 2 ∧ 14 ≤ sel) ∨
      (op = 2 ∧ 2 ≤ opd) ∨
      (op = 3 ∧ 16384 ≤ opd) ∨
      (op = 5 ∧ 4 ≤ sel) ∨
      (op = 6 ∧ 2 ≤ sel) ∨
      (op = 7 ∧ 2 ≤ sel) := by
  by_cases hop : 10 ≤ op
  · exact iff_of_true (reservedFields_of_ten_le hop sel opd) (.inl hop)
  · interval_cases op <;> simp [reservedFields]

/-- A word is reserved exactly in the cases of R70. -/
theorem decode_instr?_eq_none_iff (w : CommandWord) :
    (decode w).instr? = none ↔ reservedFields (opcodeOf w).toNat (selOf w).toNat (operandOf w).toNat := by
  unfold decode
  split
  case h_1 hop | h_2 hop | h_5 hop => rw [hop, decodeNone_instr?_eq_none_iff, reservedFields]
  case h_3 hop => rw [hop, decodeButton_instr?_eq_none_iff, reservedFields]
  case h_4 hop => rw [hop, decodeMask_instr?_eq_none_iff, reservedFields]
  case h_6 hop => rw [hop, decodeSetAxis_instr?_eq_none_iff, reservedFields]
  case h_7 hop => rw [hop, decodeSetTrigger_instr?_eq_none_iff, reservedFields]
  case h_8 hop => rw [hop, decodeSetDpadAxis_instr?_eq_none_iff, reservedFields]
  case h_9 hop => rw [hop, decodeCompass_instr?_eq_none_iff, reservedFields]
  case h_10 hop => rw [hop, decodePacked_instr?_eq_none_iff, reservedFields]
  case h_11 =>
    have hop : 10 ≤ (opcodeOf w).toNat := by
      simp only [imp_false] at *
      omega
    exact iff_of_true rfl (reservedFields_of_ten_le hop _ _)

/-! ## Words written as numbers (R61, R72) -/

theorem packWord_eq_ofNat (op sel : BitVec 4) (opd : Operand) :
    packWord op sel opd = BitVec.ofNat 40 (op.toNat * 68719476736 + sel.toNat * 4294967296 + opd.toNat) := by
  apply word_ext <;> apply BitVec.eq_of_toNat_eq <;>
    simp [opcodeOf_toNat, selOf_toNat, operandOf_toNat] <;> omega

/-- A command is read from its fields written as numbers. -/
theorem decode_ofNat_fields {i : Instr} {op sel opd : Nat} (hi : i.wellFormed = true) (hop : i.opcode.toNat = op)
    (hsel : i.sel.toNat = sel) (hopd : i.operand.toNat = opd) :
    decode (BitVec.ofNat 40 (op * 68719476736 + sel * 4294967296 + opd)) = .command i := by
  rw [← hop, ← hsel, ← hopd, ← packWord_eq_ofNat]
  exact decodeInvertsEncode i hi

theorem decode_ofNat_reserved {op sel opd : Nat} (hop : op < 16) (hsel : sel < 16) (hopd : opd < 4294967296)
    (h : reservedFields op sel opd) :
    ∃ why, decode (BitVec.ofNat 40 (op * 68719476736 + sel * 4294967296 + opd)) = .reserved why := by
  have hop' : (BitVec.ofNat 4 op).toNat = op := Nat.mod_eq_of_lt hop
  have hsel' : (BitVec.ofNat 4 sel).toNat = sel := Nat.mod_eq_of_lt hsel
  have hopd' : (BitVec.ofNat 32 opd).toNat = opd := Nat.mod_eq_of_lt hopd
  rw [reserved_iff_instr?_eq_none, decode_instr?_eq_none_iff]
  have hw := packWord_eq_ofNat (BitVec.ofNat 4 op) (BitVec.ofNat 4 sel) (BitVec.ofNat 32 opd)
  rw [hop', hsel', hopd'] at hw
  rwa [← hw, opcodeOf_packWord, selOf_packWord, operandOf_packWord, hop', hsel', hopd']

/-- Settles O4: each command by `decode_ofNat_fields`, each reserved word by `decode_ofNat_reserved`. -/
theorem decodeOnNumbers : Obligations.DecodeOnNumbers := by
  intro sel opd hsel hopd word signed reads isReserved
  have hopd' : (BitVec.ofNat 32 opd).toNat = opd := Nat.mod_eq_of_lt hopd
  have hsigned : signed = sext32 (BitVec.ofNat 32 opd) := by rw [sext32_eq, hopd']
  have hfits : fitsOperand signed = true := hsigned ▸ fitsOperand_sext32 _
  have hvalue : (operandOfInt signed).toNat = opd := by rw [hsigned, operandOfInt_sext32, hopd']
  have hreserved {op : Nat} (hop : op < 16) (h : reservedFields op sel opd) : isReserved op :=
    decode_ofNat_reserved hop hsel hopd h
  refine ⟨?_, ?_, ?_, ?_, ?_, ?_, ?_, ?_, ?_, ?_, ?_, ?_⟩
  · split_ifs with h
    · exact decode_ofNat_fields rfl rfl h.1.symm h.2.symm
    · exact hreserved (by decide) (not_and_or.mp h)
  · split_ifs with h
    · exact decode_ofNat_fields rfl rfl h.1.symm h.2.symm
    · exact hreserved (by decide) (not_and_or.mp h)
  · rintro index pressed rfl rfl
    refine decode_ofNat_fields rfl rfl (Nat.mod_eq_of_lt (by omega)) ?_
    cases pressed <;> rfl
  · intro h
    have hcase : 14 ≤ sel ∨ 2 ≤ opd := by omega
    exact hreserved (by decide) hcase
  · split_ifs with h
    · obtain ⟨h0, hmask⟩ := h
      refine decode_ofNat_fields rfl rfl h0.symm ?_
      simp only [Instr.operand, BitVec.toNat_setWidth, BitVec.toNat_ofNat]
      omega
    · have hcase : sel ≠ 0 ∨ 16384 ≤ opd := by omega
      exact hreserved (by decide) hcase
  · split_ifs with h
    · exact decode_ofNat_fields rfl rfl h.1.symm h.2.symm
    · exact hreserved (by decide) (not_and_or.mp h)
  · split_ifs with h0 h1 h2 h3
    · exact decode_ofNat_fields hfits rfl h0.symm hvalue
    · exact decode_ofNat_fields hfits rfl h1.symm hvalue
    · exact decode_ofNat_fields hfits rfl h2.symm hvalue
    · exact decode_ofNat_fields hfits rfl h3.symm hvalue
    · have hcase : 4 ≤ sel := by omega
      exact hreserved (by decide) hcase
  · split_ifs with h0 h1
    · exact decode_ofNat_fields hfits rfl h0.symm hvalue
    · exact decode_ofNat_fields hfits rfl h1.symm hvalue
    · have hcase : 2 ≤ sel := by omega
      exact hreserved (by decide) hcase
  · split_ifs with h0 h1
    · exact decode_ofNat_fields hfits rfl h0.symm hvalue
    · exact decode_ofNat_fields hfits rfl h1.symm hvalue
    · have hcase : 2 ≤ sel := by omega
      exact hreserved (by decide) hcase
  · split_ifs with h0
    · exact decode_ofNat_fields hfits rfl h0.symm hvalue
    · exact hreserved (by decide) h0
  · split_ifs with h0
    · exact decode_ofNat_fields rfl rfl h0.symm hopd'
    · exact hreserved (by decide) h0
  · intro op h10 h16
    exact hreserved h16 (reservedFields_of_ten_le h10 _ _)

/-! ## The opcode map (R62) -/

theorem packWord_and (op sel op' sel' : BitVec 4) (opd opd' : Operand) :
    packWord op sel opd &&& packWord op' sel' opd' = packWord (op &&& op') (sel &&& sel') (opd &&& opd') := by
  calc packWord op sel opd &&& packWord op' sel' opd'
    _ = (op ++ sel &&& op' ++ sel') ++ (opd &&& opd') := BitVec.and_append
    _ = packWord (op &&& op') (sel &&& sel') (opd &&& opd') := congrArg (· ++ (opd &&& opd')) BitVec.and_append

theorem packWord_inj {op sel op' sel' : BitVec 4} {opd opd' : Operand} :
    packWord op sel opd = packWord op' sel' opd' ↔ op = op' ∧ sel = sel' ∧ opd = opd' := by
  constructor
  · intro h
    exact ⟨by simpa using congrArg opcodeOf h, by simpa using congrArg selOf h, by simpa using congrArg operandOf h⟩
  · rintro ⟨rfl, rfl, rfl⟩
    rfl

/-- A mask of the bits from `k` up leaves nothing exactly below 2^k. -/
theorem and_allOnes_shiftLeft_eq_zero_iff {n : Nat} (x : BitVec n) (k : Nat) :
    x &&& BitVec.allOnes n <<< k = 0 ↔ x.toNat < 2 ^ k := by
  have hshift : x.toNat / 2 ^ k * 2 ^ k < 2 ^ n := (Nat.div_mul_le_self _ _).trans_lt x.isLt
  rw [← BitVec.shiftLeft_ushiftRight, ← BitVec.toNat_inj, BitVec.toNat_shiftLeft, BitVec.toNat_ushiftRight,
    Nat.shiftLeft_eq, Nat.shiftRight_eq_div_pow, Nat.mod_eq_of_lt hshift, BitVec.ofNat_eq_ofNat, BitVec.toNat_zero,
    Nat.mul_eq_zero, or_iff_left (Nat.two_pow_pos k).ne', Nat.div_eq_zero_iff_lt (Nat.two_pow_pos k)]

/-- The row's shape is an opcode, a selector below 2^a and an operand below 2^b. -/
def OpcodeRow.asks (row : OpcodeRow) (op : BitVec 4) (a b : Nat) : Prop :=
  row.value = packWord op 0 0 ∧
  row.mask = packWord (BitVec.allOnes 4) (BitVec.allOnes 4 <<< a) (BitVec.allOnes 32 <<< b)

theorem fits_iff {row : OpcodeRow} {op : BitVec 4} {a b : Nat} (h : row.asks op a b) (w : CommandWord) :
    row.fits w = true ↔ opcodeOf w = op ∧ (selOf w).toNat < 2 ^ a ∧ (operandOf w).toNat < 2 ^ b := by
  obtain ⟨hvalue, hmask⟩ := h
  rw [OpcodeRow.fits, beq_iff_eq, hvalue, hmask, ← packWord_fields w, packWord_and, packWord_inj, BitVec.and_allOnes,
    and_allOnes_shiftLeft_eq_zero_iff, and_allOnes_shiftLeft_eq_zero_iff, packWord_fields]

theorem further_iff (row : OpcodeRow) (w : CommandWord) :
    row.further w = true ↔ (row.mnemonic = "setButton" → (selOf w).toNat ≤ 13) := by
  by_cases h : row.mnemonic = "setButton" <;> simp [OpcodeRow.further, h]

/-- Row by row: what its shape and its further condition shut out are the words reserved under its opcode. -/
theorem opcodeTable_asks : ∀ row ∈ opcodeTable, ∃ op a b, row.asks op a b ∧
    ∀ sel opd : Nat, sel < 2 ^ 4 → opd < 2 ^ 32 →
      ((sel < 2 ^ a ∧ opd < 2 ^ b ∧ (row.mnemonic = "setButton" → sel ≤ 13)) ↔ ¬ reservedFields op.toNat sel opd) := by
  simp only [opcodeTable, List.forall_mem_cons, List.not_mem_nil, false_implies, implies_true, and_true]
  refine ⟨⟨0, 0, 0, ⟨rfl, rfl⟩, ?_⟩, ⟨1, 0, 0, ⟨rfl, rfl⟩, ?_⟩, ⟨2, 4, 1, ⟨rfl, rfl⟩, ?_⟩, ⟨3, 0, 14, ⟨rfl, rfl⟩, ?_⟩,
    ⟨4, 0, 0, ⟨rfl, rfl⟩, ?_⟩, ⟨5, 2, 32, ⟨rfl, rfl⟩, ?_⟩, ⟨6, 1, 32, ⟨rfl, rfl⟩, ?_⟩, ⟨7, 1, 32, ⟨rfl, rfl⟩, ?_⟩,
    ⟨8, 0, 32, ⟨rfl, rfl⟩, ?_⟩, ⟨9, 0, 32, ⟨rfl, rfl⟩, ?_⟩⟩ <;>
  · intro sel opd hsel hopd
    simp only [BitVec.ofNat_eq_ofNat, BitVec.reduceToNat, String.reduceEq, false_implies, true_implies, and_true,
      reservedFields]
    omega

theorem row_eq_of_opcode_eq :
    ∀ row ∈ opcodeTable, ∀ row' ∈ opcodeTable, opcodeOf row.value = opcodeOf row'.value → row = row' := by
  decide

theorem row_eq_of_mnemonic_eq :
    ∀ row ∈ opcodeTable, ∀ row' ∈ opcodeTable, row.mnemonic = row'.mnemonic → row = row' := by
  decide

theorem exists_row (i : Instr) :
    ∃ row, opcodeTable[i.opcode.toNat]? = some row ∧ row.mnemonic = i.mnemonic ∧ opcodeOf row.value = i.opcode := by
  cases i <;> exact ⟨_, rfl, rfl, rfl⟩

/-- A command has the row's mnemonic exactly when it has the row's opcode. -/
theorem mnemonic_eq_iff_opcode_eq {row : OpcodeRow} (hrow : row ∈ opcodeTable) (i : Instr) :
    i.mnemonic = row.mnemonic ↔ i.opcode = opcodeOf row.value := by
  obtain ⟨row', hget, hname, hop⟩ := exists_row i
  have hrow' : row' ∈ opcodeTable := List.mem_of_getElem? hget
  rw [← hname, ← hop]
  constructor
  · intro h
    rw [row_eq_of_mnemonic_eq row' hrow' row hrow h]
  · intro h
    rw [row_eq_of_opcode_eq row' hrow' row hrow h]

theorem opcodeOf_of_decode {w : CommandWord} {i : Instr} (h : decode w = .command i) : opcodeOf w = i.opcode := by
  obtain ⟨-, rfl⟩ := encodeInvertsDecode w i h
  exact opcodeOf_packWord _ _ _

/-- A word decodes to the row's command exactly when it has the row's opcode and is not reserved. -/
theorem decodes_to_row_iff {row : OpcodeRow} (hrow : row ∈ opcodeTable) (w : CommandWord) :
    (∃ i, decode w = .command i ∧ i.mnemonic = row.mnemonic) ↔
      opcodeOf w = opcodeOf row.value ∧ (decode w).instr? ≠ none := by
  simp only [mnemonic_eq_iff_opcode_eq hrow]
  constructor
  · rintro ⟨i, hd, hop⟩
    exact ⟨(opcodeOf_of_decode hd).trans hop, by simp [hd, Decoded.instr?]⟩
  · rintro ⟨hop, hne⟩
    cases hd : decode w with
    | command i => exact ⟨i, rfl, (opcodeOf_of_decode hd).symm.trans hop⟩
    | reserved why => simp [hd, Decoded.instr?] at hne

theorem opcodeOf_of_fits {row : OpcodeRow} (hrow : row ∈ opcodeTable) {w : CommandWord} (h : row.fits w = true) :
    opcodeOf w = opcodeOf row.value := by
  obtain ⟨op, a, b, hasks, -⟩ := opcodeTable_asks row hrow
  obtain ⟨hop, -⟩ := (fits_iff hasks w).mp h
  have ⟨hvalue, _⟩ := hasks
  rw [hop, hvalue, opcodeOf_packWord]

/-- Settles O5: a row's shape and further condition are its opcode without the reserved words (`opcodeTable_asks`), and
so is decoding to its command (`decodes_to_row_iff`); two rows that one word fits both have the opcode of that word. -/
theorem opcodeTableIsTheDecoder : Obligations.OpcodeTableIsTheDecoder := by
  constructor
  · intro row hrow w
    obtain ⟨op, a, b, hasks, hfree⟩ := opcodeTable_asks row hrow
    have ⟨hvalue, _⟩ := hasks
    rw [decodes_to_row_iff hrow, further_iff, fits_iff hasks, hvalue, opcodeOf_packWord, ne_eq,
      decode_instr?_eq_none_iff, and_assoc, and_assoc, hfree _ _ (selOf w).isLt (operandOf w).isLt]
    exact and_congr_right fun hop => by rw [hop]
  · intro row hrow row' hrow' w h h'
    have hop : opcodeOf row.value = opcodeOf row'.value :=
      (opcodeOf_of_fits hrow h).symm.trans (opcodeOf_of_fits hrow' h')
    exact row_eq_of_opcode_eq row hrow row' hrow' hop

end Sys2Proof

namespace Sys2Proof.Machine

/-! ## Serving a word (R70, D9) -/

/-- An idle block refuses the word it serves exactly when decoding does, since every command runs. -/
theorem step_refused_iff {s : State} {p : Nat} {moves : List EnvMove} {w : CommandWord} {rest : List CommandWord}
    {received : List Status} (hi : s.activity = .idle) (hm : s.moves = .serve p :: moves)
    (hp : s.producers[p]? = some ⟨w :: rest, received⟩) (why : Reserved) :
    step s = .refused (.reservedEncoding why) ↔ decode w = .reserved why := by
  rw [step_serve hi hm hp]
  cases decode w with
  | command i =>
    obtain ⟨t, he, -, -⟩ := exec_next i (accepted p rest received (s.withMoves moves))
    simp [he]
  | reserved why' => simp

/-- Settles O6: the step refuses what decoding refuses, and those are the cases of R70. -/
theorem reservedWordsAreRefused : Obligations.ReservedWordsAreRefused := by
  intro s p moves w rest received hi hm hp op sel opd
  simp only [step_refused_iff hi hm hp, reserved_iff_instr?_eq_none, decode_instr?_eq_none_iff, opcodeOf_toNat,
    selOf_toNat, operandOf_toNat]
  exact reservedFields_iff op sel opd

end Sys2Proof.Machine
end

section
/-! PROOFS. The commands that write one field (spec/44_button_commands.md, spec/45_axis_trigger_commands.md): one button
flag (R115), what a press and a release leave of it (C3), one stick (R120) and one trigger (R121). -/

namespace Sys2Proof.Machine

/-! ## One button flag (R115) -/

theorem mutate_setButton (index : Fin 14) (pressed : Bool) (s : State) :
    mutate (.setButton index pressed) s = writeButtons (writeFlag index pressed s.ctl.buttons) s := rfl

/-- Settles O23: the register written is `writeFlag`, and `writeFlag_getLsbD` says which flag that changes. -/
theorem setButtonWritesOneFlag : Obligations.SetButtonWritesOneFlag := by
  intro index pressed s
  obtain ⟨t, he, hctl, hatt⟩ := exec_next_of_mutate_writeButtons (mutate_setButton index pressed s)
  refine ⟨t, he, ?_, ?_, hatt⟩ <;> rw [hctl]
  intro k hk
  exact writeFlag_getLsbD index pressed s.ctl.buttons hk

/-! ## A press and a release (C3) -/

section
variable (index : Fin 14) (pressed : Bool) (b : ButtonSet)

theorem writeFlag_getLsbD_self : (writeFlag index pressed b).getLsbD index.val = pressed := by
  rw [writeFlag_getLsbD index pressed b index.isLt, if_pos rfl]

theorem writeFlag_getLsbD_of_ne {k : Nat} (hk : k ≠ index.val) :
    (writeFlag index pressed b).getLsbD k = b.getLsbD k := by
  by_cases hlt : k < 14
  · rw [writeFlag_getLsbD index pressed b hlt, if_neg hk]
  · rw [BitVec.getLsbD_of_ge _ _ (by omega), BitVec.getLsbD_of_ge _ _ (by omega)]

/-- Writing a flag changes nothing exactly when the flag had that value. -/
theorem writeFlag_eq_self_iff : writeFlag index pressed b = b ↔ b.getLsbD index.val = pressed := by
  constructor
  · intro h
    rw [← h, writeFlag_getLsbD_self]
  · intro h
    apply BitVec.eq_of_getLsbD_eq
    intro k hk
    rw [writeFlag_getLsbD index pressed b hk, ← h]
    split_ifs with hindex
    · rw [hindex]
    · rfl

/-- The last write of a flag decides. -/
theorem writeFlag_writeFlag_last (earlier : Bool) :
    writeFlag index pressed (writeFlag index earlier b) = writeFlag index pressed b := by
  apply BitVec.eq_of_getLsbD_eq
  intro k hk
  simp only [writeFlag_getLsbD index _ _ hk]
  split_ifs <;> rfl

end

theorem exec_setButton_buttons {index : Fin 14} {pressed : Bool} {s t : State}
    (h : exec (.setButton index pressed) s = .next t) : t.ctl.buttons = writeFlag index pressed s.ctl.buttons := by
  obtain ⟨hctl, -⟩ := exec_fields h
  rw [hctl, mutate_setButton, writeButtons_ctl]

/-- Settles O38: the release alone decides the register, so the press leaves no trace. -/
theorem pressThenReleaseClearsTheFlag : Obligations.PressThenReleaseClearsTheFlag := by
  intro index s t u ht hu
  have hbuttons : u.ctl.buttons = writeFlag index false s.ctl.buttons := by
    rw [exec_setButton_buttons hu, exec_setButton_buttons ht, writeFlag_writeFlag_last]
  rw [hbuttons]
  exact ⟨writeFlag_getLsbD_self index false _, fun k hk => writeFlag_getLsbD_of_ne index false _ hk,
    writeFlag_eq_self_iff index false _⟩

/-! ## One stick (R120) and one trigger (R121) -/

theorem stickValue_toNat (value : Int) :
    ((stickValue value).toNat : Int) = if 0 ≤ value ∧ value ≤ 255 then value else 128 :=
  failSoft_toNat Config.axisOorValue value

theorem triggerValue_toNat (value : Int) :
    ((triggerValue value).toNat : Int) = if 0 ≤ value ∧ value ≤ 255 then value else 0 :=
  failSoft_toNat Config.trigOorValue value

/-- Settles O26: the fields are `writeStick` of the byte stored, stick by stick. -/
theorem setAxisWritesOneStickField : Obligations.SetAxisWritesOneStickField := by
  intro which value s
  obtain ⟨t, he, hctl, hatt⟩ := exec_next (.setAxis which value) s
  refine ⟨t, he, hatt, stickValue value, stickValue_toNat value, ?_, ?_, ?_, ?_⟩ <;>
  · rintro rfl
    exact hctl

/-- Settles O27: the fields are `writeTrigger` of the byte stored, side by side. -/
theorem setTriggerWritesOneTrigger : Obligations.SetTriggerWritesOneTrigger := by
  intro which value s
  obtain ⟨t, he, hctl, hatt⟩ := exec_next (.setTrigger which value) s
  refine ⟨t, he, hatt, triggerValue value, triggerValue_toNat value, ?_, ?_⟩ <;>
  · rintro rfl
    exact hctl

end Sys2Proof.Machine
end

section
/-! PROOFS. Reset and session (spec/70_reset_and_hazards.md, spec/43_session_commands.md): the state after reset and the
move that restores it (R32, R150), `attach` and `detach` (R110, R111), and who else binds the sink (R26). -/

namespace Sys2Proof.Machine

/-! ## Reset (R32, R150) -/

/-- Settles O19, by the definition of `State.reset`. -/
theorem resetStateIsNeutralAndDetached : Obligations.ResetStateIsNeutralAndDetached :=
  ⟨rfl, rfl, rfl, rfl⟩

/-- Settles O20: the step is `step_reset`, and `resetBlock` writes these fields by definition. -/
theorem resetMoveRestoresTheBlock : Obligations.ResetMoveRestoresTheBlock := by
  intro s rest hm
  exact ⟨resetBlock (s.withMoves rest), step_reset hm, rfl, rfl, rfl, rfl, rfl, rfl, rfl, rfl⟩

/-- Settles O46: the default `dpad` is that of the default axes, the block is idle and no frame is at the sink. -/
theorem invariantHoldsAtReset : Obligations.InvariantHoldsAtReset := by
  have hconsistent : State.reset.ctl.consistent := rfl
  exact ⟨hconsistent, handOverSound_of_idle rfl, List.forall_mem_nil _⟩

/-! ## Session (R110, R111) -/

/-- A frame handed over to the sink, answered or not, is the last of those handed over. -/
theorem handedOver_of_exec_bound {i : Instr} {s t : State} (hd : i ≠ .detach) (ha : t.attached = true)
    (he : exec i s = .next t) : handedOver t = s.sink.map HandOver.frame ++ [encodeFrame t.ctl] := by
  obtain ⟨-, hatt⟩ := exec_fields he
  rcases exec_cases he with ⟨hdetach, -⟩ | ⟨-, hunbound, -⟩ | ⟨-, -, a, rest, -, rfl⟩ | ⟨-, -, -, rfl⟩
  · exact absurd hdetach hd
  · simp [hunbound, ha] at hatt
  · simp [handedOver, outstanding]
  · simp [handedOver, outstanding]

/-- The default frame, byte by byte (R110). -/
theorem encodeFrame_defaults : encodeFrame ControllerState.defaults =
    #v[0x02, 0x0B, 0x03, 0x01, 0x80, 0x80, 0x80, 0x80, 0x08, 0x00, 0x00, 0x00, 0x00, 0x03] := by
  decide

/-- Settles O21: the mutation gives `Defaults` and a sink, whose frame is handed over. -/
theorem attachResetsAndSendsDefaultFrame : Obligations.AttachResetsAndSendsDefaultFrame := by
  intro s
  obtain ⟨t, he, hctl, hatt⟩ := exec_next .attach s
  have hdefaults : t.ctl = ControllerState.defaults := hctl
  refine ⟨t, he, hdefaults, hatt, ?_⟩
  rw [handedOver_of_exec_bound Instr.noConfusion hatt he, hdefaults, encodeFrame_defaults]

/-- Settles O22: `detach` completes with OK at once, and its mutation writes `attached` alone. -/
theorem detachReleasesTheSink : Obligations.DetachReleasesTheSink := by
  intro s
  exact ⟨complete .ok (mutateDetach s), exec_detach s, rfl, rfl, rfl, rfl, rfl, rfl⟩

/-- Settles O45, by the definition of `statusCode`. -/
theorem completionCodes : Obligations.CompletionCodes :=
  ⟨rfl, rfl⟩

/-! ## Who binds the sink (R26) -/

/-- Settles O52, by the cases of a step: of the commands only `attach` and `detach` change the binding
(`exec_attached`), and of the other steps only a reset. -/
theorem onlySessionCommandsBindTheSink : Obligations.OnlySessionCommandsBindTheSink := by
  intro s t h hne
  rcases step_cases h with ⟨-, rfl⟩ | ⟨rest, -, rfl⟩ | ⟨rest, hm, -⟩ | ⟨a, rest, c, f, -, -, rfl⟩ |
    ⟨p, rest, -, rfl⟩ | ⟨p, moves, w, rest, received, i, hm, hi, hp, hd, he⟩
  · exact absurd rfl hne
  · exact absurd rfl hne
  · exact .inl ⟨rest, hm⟩
  · exact absurd rfl hne
  · exact absurd rfl hne
  · refine .inr ⟨p, moves, w, rest, received, hi, hm, hp, ?_⟩
    by_contra hother
    have hattach : i ≠ .attach := fun h => hother (.inl (h ▸ hd))
    have hdetach : i ≠ .detach := fun h => hother (.inr (h ▸ hd))
    exact hne (by simpa using exec_attached hattach hdetach he)

end Sys2Proof.Machine
end

section
/-! PROOFS. The canonical pairs of the combinator (spec/41_dpad_mapper.md R93). -/

namespace Sys2Proof.Machine

theorem toAxes_outside {code : Int} (h : code < 0 ∨ 8 < code) : toAxes code = (128, 128) := by
  have hne : ∀ k : Int, 0 ≤ k → k ≤ 8 → code ≠ k := by omega
  simp [toAxes, hne]

/-- Settles O11: the nine rows by computation, every other integer by `toAxes_outside`. -/
theorem toAxesIsTheCanonicalTable : Obligations.ToAxesIsTheCanonicalTable :=
  ⟨rfl, rfl, rfl, rfl, rfl, rfl, rfl, rfl, rfl, fun _ => toAxes_outside⟩

end Sys2Proof.Machine
end

section
/-! PROOFS. Texts and words of the spec (spec/30_encoding.md section 6): numbers in both bases (log 28), the
textual forms (R74), and the ten words written out (R62). -/

namespace Sys2Proof.Machine.Text

/-! ## Numbers in both bases -/

/-- The digits of a number are read back to it, whatever the base: the last digit is read after the others. -/
theorem readDigits_toDigits {digit : Char → Option Nat} {base : Nat} (hbase : 1 < base)
    (hdigit : ∀ k < base, digit (Nat.digitChar k) = some k) (n : Nat) :
    readDigits digit base 0 (Nat.toDigits base n) = some n := by
  induction n using Nat.strong_induction_on with
  | _ n ih =>
    rcases Nat.lt_or_ge n base with hlt | hge
    · simp [Nat.toDigits_of_lt_base hlt, readDigits, hdigit n hlt]
    · have hlast : n % base < base := Nat.mod_lt n (by omega)
      rw [Nat.toDigits_of_base_le hbase hge, readDigits_append, ih (n / base) (Nat.div_lt_self (by omega) hbase)]
      simp [readDigits, hdigit _ hlast, Nat.div_add_mod']

theorem not_mem_toDigits_ten {c : Char} (hc : c.isDigit = false) (n : Nat) : c ∉ Nat.toDigits 10 n := by
  intro hmem
  rw [Nat.isDigit_of_mem_toDigits (by decide) (by decide) hmem] at hc
  cases hc

/-- A text without an `x` is read as decimal. -/
theorem readNat_of_no_x {cs : List Char} (hne : cs ≠ []) (hx : 'x' ∉ cs) :
    readNat cs = readDigits decimalDigit 10 0 cs := by
  unfold readNat
  split
  · exact absurd rfl hne
  · simp at hx
  · rfl

theorem readNat_decimal (n : Nat) : readNat (Nat.toDigits 10 n) = some n := by
  rw [readNat_of_no_x Nat.toDigits_ne_nil (not_mem_toDigits_ten rfl n)]
  exact readDigits_toDigits (by decide) decimalDigit_digitChar n

theorem readNat_hexadecimal (n : Nat) : readNat ('0' :: 'x' :: Nat.toDigits 16 n) = some n := by
  obtain ⟨c, cs, h⟩ := List.exists_cons_of_ne_nil (Nat.toDigits_ne_nil (n := n) (b := 16))
  rw [h, readNat, ← h]
  exact readDigits_toDigits (by decide) hexDigit_digitChar n

theorem readInt_neg {cs : List Char} {n : Nat} (h : readNat cs = some n) : readInt ('-' :: cs) = some (-(n : Int)) := by
  simp [readInt, h]

theorem readInt_of_no_minus {cs : List Char} {n : Nat} (hminus : '-' ∉ cs) (h : readNat cs = some n) :
    readInt cs = some (n : Int) := by
  unfold readInt
  split
  · simp at hminus
  · simp [h]

theorem readInt_hexadecimal (n : Nat) : readInt ('0' :: 'x' :: Nat.toDigits 16 n) = some (n : Int) := by
  simp [readInt, readNat_hexadecimal]

/-- Settles O60: a decimal has no `x` and no minus sign, a hexadecimal begins with `0x`, and either is read by
`readDigits_toDigits`. -/
theorem numeralsAreReadInBothBases : Obligations.NumeralsAreReadInBothBases := by
  intro n
  have hdec := readNat_decimal n
  have hhex := readNat_hexadecimal n
  have hminus : '-' ∉ Nat.toDigits 10 n := not_mem_toDigits_ten rfl n
  exact ⟨hdec, hhex, readInt_of_no_minus hminus hdec, readInt_hexadecimal n, readInt_neg hdec, readInt_neg hhex⟩

/-! ## The textual forms (R74) -/

/-- Settles O7, by reading each text: the characters of a form are those of its parts, so none is put together as a
string before it is read. -/
theorem textualFormsDenoteCommands : Obligations.TextualFormsDenoteCommands := by
  simp only [Obligations.TextualFormsDenoteCommands, parse, String.toList_append]
  refine ⟨?_, ?_, ?_, ?_, ?_, ?_, ?_, ?_, ?_, ?_⟩ <;> decide

end Sys2Proof.Machine.Text

namespace Sys2Proof

/-! ## The ten words (R62) -/

/-- Settles O1, by evaluating `decode` on each word. -/
theorem wordsOfTheSpecDecode : Obligations.WordsOfTheSpecDecode := by
  unfold Obligations.WordsOfTheSpecDecode
  decide

end Sys2Proof
end
